-- ==== Sys2Proof/Machine/Params.lean ====
section
/-! DEFINITION. The named parameters (00_scope.md R7) in the one record that the word types and every
operation read them from (70_reset_and_hazards.md R296; decision D28, log 9). -/

namespace Sys2Proof

/-- The named parameters of R7, held in one record so that an audited value can replace one of them
in one place (R296; decision D28). -/
structure Params where
  /-- `FRAME_BITS`: data bits per frame. -/
  frameBits : Nat
  /-- `SYNC_PULSES`: falling edges consumed before the first data bit. -/
  syncPulses : Nat
  /-- `BUF_BYTES`: bytes of the result buffer. -/
  bufBytes : Nat
  /-- `HOST_LOW_US`: microseconds between the pull-down and the alarm. -/
  hostLowUs : Nat
  /-- `ONE_MIN`, inclusive. -/
  oneMin : Nat
  /-- `ONE_MAX`, inclusive. -/
  oneMax : Nat
  /-- `ZERO_MIN`, inclusive. -/
  zeroMin : Nat
  /-- `ZERO_MAX`, inclusive. -/
  zeroMax : Nat
  /-- `CNT_W`: width of the microsecond counter. -/
  cntW : Nat
  /-- `TICK`: microseconds that one counter unit stands for. -/
  tickUs : Nat
  /-- `BITIDX_W`: width of `bitIndex`. -/
  bitIdxW : Nat
  /-- `TS_W`: width of the stored timestamps. -/
  tsW : Nat
  /-- `FLAGS_W`: width of the status word. -/
  flagsW : Nat
  /-- `EV_W`: width of the event word. -/
  evW : Nat
deriving DecidableEq, Repr

namespace Machine

/-- The parameter table of R7. `CTX_W` is open and the context a natural number (log 16); `CB_EN` is a
field of each configuration. -/
def params : Params where
  frameBits := 40
  syncPulses := 2
  bufBytes := 5
  hostLowUs := 1000
  oneMin := 68
  oneMax := 75
  zeroMin := 22
  zeroMax := 29
  cntW := 64
  tickUs := 1
  bitIdxW := 8
  tsW := 32
  flagsW := 8
  evW := 4

end Machine

end Sys2Proof
end

