-- ==== Sys2Proof/Word.lean ====
section
/-! DEFINITION. The word types of the decoder block (00_scope.md R7, R8; 10_state.md R21 to R45).
Bit 0 of every word is its least significant bit (R8). Widths and sizes are read from the parameter
record: `reduceProj% (delta% Machine.params).x` is the value of the field `x`, taken as a numeral when
the type is declared. -/

namespace Sys2Proof

/-- One byte of `dataBuffer`, 8 bits (R27). -/
abbrev Byte := BitVec 8

/-- The status word and the error mask, `FLAGS_W` bits (R28, R132). -/
abbrev StatusWord := BitVec (reduceProj% (delta% Machine.params).flagsW)

/-- A stored timestamp, T = `TS_W` bits (R21 to R24; decision D3, log 7). -/
abbrev Stamp := BitVec (reduceProj% (delta% Machine.params).tsW)

/-- The position counter, W = `BITIDX_W` bits, unsigned (R25; decision D2, log 7). -/
abbrev BitIdx := BitVec (reduceProj% (delta% Machine.params).bitIdxW)

/-- A value of the shared microsecond counter, `CNT_W` bits (R7, R239). -/
abbrev Counter := BitVec (reduceProj% (delta% Machine.params).cntW)

/-- An event word, `EV_W` bits (R90). -/
abbrev EventWord := BitVec (reduceProj% (delta% Machine.params).evW)

/-- A byte address of `dataBuffer`: 0 to `BUF_BYTES` - 1 (R60). -/
abbrev BufAddr := Fin (reduceProj% (delta% Machine.params).bufBytes)

/-- A bit address of `dataBuffer`: 0 to `FRAME_BITS` - 1 (R60). -/
abbrev BitAddr := Fin (reduceProj% (delta% Machine.params).frameBits)

end Sys2Proof
end

