-- ==== Sys2Proof/Syntax.lean ====
section
/-! DEFINITION. The events of the decoder block, which stand in the place of instructions
(00_scope.md R2, R12; 30_encoding.md R90 to R95): one constructor of `Instr` per row of the opcode
table, and the input ports on which an event is presented. -/

namespace Sys2Proof

/-- `CommunicationConfig` (10_state.md R40). The block computes on none of the identifiers, whose
widths the source does not give (91_not_in_source.md N6; decision D19): they are natural numbers
(log 16). -/
structure CommConfig where
  /-- `CFG.pin`: which line; opaque. -/
  pin : Nat
  /-- `CFG.timer_group`: which counter; opaque. -/
  timerGroup : Nat
  /-- `CFG.timer_index`: which alarm; opaque. -/
  timerIndex : Nat
  /-- `CFG.cb_en`: a completion callback is configured. -/
  cbEn : Bool
  /-- `CFG.ctx`: the opaque user context, handed back unchanged. -/
  ctx : Nat
deriving DecidableEq, Repr, Inhabited

/-- The four operations with their operands (R2, R12). Every event carries `NOW`; START carries the
two registration outcomes and the configuration as well (40_start.md R130). No operand has a value
the spec forbids, so every term is well formed. -/
inductive Instr where
  /-- START (R130): `gf`, `tf` true = the edge, the timer registration failed. -/
  | start (gf tf : Bool) (now : Counter) (cfg : CommConfig)
  /-- ALARM (41_phase_transition.md R150). -/
  | alarm (now : Counter)
  /-- EDGE_FALL (42_edge_decoder.md R162). -/
  | edgeFall (now : Counter)
  /-- EDGE_RISE (42_edge_decoder.md R161). -/
  | edgeRise (now : Counter)
deriving DecidableEq, Repr

/-- The `NOW` operand of an event (R94). -/
def Instr.now : Instr → Counter
  | .start _ _ now _ => now
  | .alarm now => now
  | .edgeFall now => now
  | .edgeRise now => now

/-- What stands on the block's input ports when an event is presented (60_exceptions.md R244): the
event word with its valid strobe (the presence of this record), `NOW`, and the configuration, which
only START takes. -/
structure EventInput where
  /-- `EV[3:0]` (30_encoding.md R90). -/
  ev : EventWord
  /-- `NOW[63:0]` (R94). -/
  now : Counter
  /-- The configuration port; no event but START reads it (log 17). -/
  cfg : CommConfig
deriving DecidableEq, Repr

end Sys2Proof
end

