-- ==== Sys2Proof/Config.lean ====
section
/-! DEFINITION. The free values: what an implementation's registers hold at power-on. The named
parameters are in Machine/Params.lean. -/

namespace Sys2Proof

namespace Config

/-! The power-on values. R48: "unspecified" means a model must treat the value as arbitrary (a
draw), never as zero. Each is a constant without a body, of which nothing can be proved.
DESIGN CHOICE, logs 2 and 3. -/

/-- Power-on `hostPullDownTime` (R21). -/
opaque powerOnHostPullDownTime : Stamp
/-- Power-on `hostPullUpTime` (R22). -/
opaque powerOnHostPullUpTime : Stamp
/-- Power-on `lastDevicePullUpTime` (R23; 93_implementation_defined.md U17). -/
opaque powerOnLastDevicePullUpTime : Stamp
/-- Power-on `bitIndex` (R25, R48). -/
opaque powerOnBitIndex : BitIdx
/-- Power-on `statusFlags` (R29). -/
opaque powerOnStatusFlags : StatusWord
/-- What a byte of `dataBuffer` reads as that nothing has written since power-on (R27). -/
opaque powerOnByte : Nat → Byte
/-- The configuration before any START has supplied one (R40). -/
opaque powerOnCfg : CommConfig
/-- Power-on `line_oe` (R42). -/
opaque powerOnLineOe : Bool
/-- Power-on `line_out` (R42). -/
opaque powerOnLineOut : Bool
/-- Power-on `line_pu` (R42; U19). -/
opaque powerOnLinePu : Bool
/-- Power-on `alarm_val` (R44). -/
opaque powerOnAlarmVal : Counter

end Config

end Sys2Proof
end

