-- ==== Sys2Proof/WellFormed.lean ====
section
/-! DEFINITION. The checks on what is given to the block from outside: an event on the input ports
(30_encoding.md R90, R96), a trace (00_scope.md R15), a parameter record (00_scope.md R7). An
`Instr` needs no check: its types leave no ill-formed term. -/

namespace Sys2Proof

/-- `KIND` = `EV[3:2]` is not the reserved 0b11 (R90). -/
def EventInput.kindDefined (e : EventInput) : Bool :=
  !(e.ev.getLsbD 3 && e.ev.getLsbD 2)

/-- An ALARM word has `A` = `B` = 0 (R90). -/
def EventInput.alarmFieldsZero (e : EventInput) : Bool :=
  if !e.ev.getLsbD 3 && e.ev.getLsbD 2 then !e.ev.getLsbD 1 && !e.ev.getLsbD 0 else true

/-- An EDGE word has `A` = 0 (R90). -/
def EventInput.edgeFieldZero (e : EventInput) : Bool :=
  if e.ev.getLsbD 3 && !e.ev.getLsbD 2 then !e.ev.getLsbD 1 else true

/-- The event word is none of the nine reserved values (R96). -/
def EventInput.wellFormed (e : EventInput) : Bool :=
  e.kindDefined && e.alarmFieldsZero && e.edgeFieldZero

/-- `NOW` is non-decreasing along a trace, equal values allowed (R15, R94; decision D11). -/
def nowOrdered : List EventInput → Bool
  | [] => true
  | [_] => true
  | e :: f :: rest => decide (e.now ≤ f.now) && nowOrdered (f :: rest)

/-- The counter keeps two values beyond the excess range free: `2^W - 2 ≥ FRAME_BITS` (R7). -/
def Params.counterHoldsFrame (p : Params) : Bool := decide (p.frameBits ≤ 2 ^ p.bitIdxW - p.syncPulses)

/-- T ≥ 8, so that a signed and an unsigned reading of `elapsed` agree (R105; decision D3). -/
def Params.stampWideEnough (p : Params) : Bool := decide (8 ≤ p.tsW)

/-- The buffer holds exactly the frame's bits (R60). -/
def Params.bufferHoldsFrame (p : Params) : Bool := decide (8 * p.bufBytes = p.frameBits)

/-- The two windows are intervals and no value lies in both (R103). -/
def Params.windowsDisjoint (p : Params) : Bool :=
  decide (p.zeroMin ≤ p.zeroMax) && decide (p.oneMin ≤ p.oneMax) &&
    (decide (p.zeroMax < p.oneMin) || decide (p.oneMax < p.zeroMin))

/-- A counter unit stands for some time, and the host's low time is a whole number of them (R7, R136). -/
def Params.tickMeasures (p : Params) : Bool := decide (0 < p.tickUs ∧ p.hostLowUs % p.tickUs = 0)

/-- One bit per named flag (R7, R28). -/
def Params.flagsFit (p : Params) : Bool := decide (8 ≤ p.flagsW)

/-- The event word holds `KIND`, `A` and `B` and no more (R90). -/
def Params.eventWordFits (p : Params) : Bool := decide (p.evW = 4)

/-- A parameter record under which every rule keeps its meaning (R7). -/
def Params.wellFormed (p : Params) : Bool :=
  p.counterHoldsFrame && p.stampWideEnough && p.bufferHoldsFrame && p.windowsDisjoint &&
    p.tickMeasures && p.flagsFit && p.eventWordFits

end Sys2Proof
end

