-- ==== Sys2Proof/Decode.lean ====
section
/-! DEFINITION. The decoder of event words, total on every input and rejecting by name, and the
encoder (30_encoding.md R90 to R96; the encoding is the spec's own, decision D6, log 8). -/

namespace Sys2Proof

/-- Why an event word is rejected. -/
inductive DecodeError where
  /-- One of the nine reserved values (R96). -/
  | reservedEventWord (ev : EventWord)
deriving DecidableEq, Repr

/-- `EV[3]`, the high bit of `KIND` (R90). -/
def fieldKindHi (ev : EventWord) : Bool := ev.getLsbD 3

/-- `EV[2]`, the low bit of `KIND` (R90). -/
def fieldKindLo (ev : EventWord) : Bool := ev.getLsbD 2

/-- `A` = `EV[1]` (R90): `GF` in a START word. -/
def fieldA (ev : EventWord) : Bool := ev.getLsbD 1

/-- `B` = `EV[0]` (R90): `TF` in a START word, `LVL` in an EDGE word. -/
def fieldB (ev : EventWord) : Bool := ev.getLsbD 0

/-- The instruction that an event on the ports stands for (R91 to R93), or the reason why it stands
for none (R96). `KIND` 0b00 is START, 0b01 ALARM, 0b10 EDGE, 0b11 reserved. -/
def decode (e : EventInput) : Except DecodeError Instr :=
  match fieldKindHi e.ev, fieldKindLo e.ev, fieldA e.ev, fieldB e.ev with
  | false, false, gf, tf => .ok (.start gf tf e.now e.cfg)
  | false, true, false, false => .ok (.alarm e.now)
  | false, true, false, true => .error (.reservedEventWord e.ev)
  | false, true, true, _ => .error (.reservedEventWord e.ev)
  | true, false, false, false => .ok (.edgeFall e.now)
  | true, false, false, true => .ok (.edgeRise e.now)
  | true, false, true, _ => .error (.reservedEventWord e.ev)
  | true, true, _, _ => .error (.reservedEventWord e.ev)

/-- The configuration whose every field is zero: what the encoder leaves on the configuration port
of an event that does not read it (log 17), and the operand words of zeros of a table word. -/
def zeroConfig : CommConfig := ⟨0, 0, 0, false, 0⟩

/-- One bit as an event word. -/
def evBit (b : Bool) : EventWord := if b then 1 else 0

/-- The event word of an instruction (R91 to R93). -/
def encodeWord : Instr → EventWord
  | .start gf tf _ _ => 0b0000 ||| (evBit gf <<< 1) ||| evBit tf
  | .alarm _ => 0b0100
  | .edgeFall _ => 0b1000
  | .edgeRise _ => 0b1001

/-- What stands on the configuration port with an instruction. -/
def encodeCfg : Instr → CommConfig
  | .start _ _ _ cfg => cfg
  | .alarm _ => zeroConfig
  | .edgeFall _ => zeroConfig
  | .edgeRise _ => zeroConfig

/-- The ports as an instruction puts them: the pair (`EV`, `NOW`) of R111, and the configuration. -/
def encode (i : Instr) : EventInput := ⟨encodeWord i, i.now, encodeCfg i⟩

/-- A row of the opcode table: an event word belongs to it when `ev &&& mask = value` (R91 to R93). -/
structure OpcodeRow where
  mnemonic : String
  value : EventWord
  mask : EventWord
deriving DecidableEq, Repr

/-- The table's four rows (R95). -/
def opcodeRows : List OpcodeRow :=
  [⟨"START", 0b0000, 0b1100⟩, ⟨"ALARM", 0b0100, 0b1111⟩,
   ⟨"EDGE_FALL", 0b1000, 0b1111⟩, ⟨"EDGE_RISE", 0b1001, 0b1111⟩]

/-- An event word belongs to a row. -/
def OpcodeRow.covers (r : OpcodeRow) (ev : EventWord) : Bool := ev &&& r.mask == r.value

/-- The table row's mnemonic of an instruction. -/
def mnemonicOf : Instr → String
  | .start _ _ _ _ => "START"
  | .alarm _ => "ALARM"
  | .edgeFall _ => "EDGE_FALL"
  | .edgeRise _ => "EDGE_RISE"

/-- The ports that a table word stands for: its `EV_W` bits, and operands of zeros (log 20). -/
def tableInput (w : Nat) : EventInput := ⟨BitVec.ofNat _ w, 0, zeroConfig⟩

/-- The instruction the decoder reads from a table word: an event word is `EV_W` bits in one
unit, so a number that has any bit above them, or fewer bits, is no event word (log 20). -/
def decodeTableWord (nbits w : Nat) : Option Instr :=
  if Machine.params.evW ≤ nbits ∧ w < 2 ^ Machine.params.evW then
    match decode (tableInput w) with
    | .ok i => some i
    | .error _ => none
  else none

end Sys2Proof
end

