-- ==== Sys2Proof/Machine/State.lean ====
section
/-! DEFINITION. The state of the decoder block as plain data (10_state.md R20 to R48), the reasons a
step can stop, and the power-on state. -/

namespace Sys2Proof.Machine

/-- `dataBuffer` (R27; 20_memory.md R60): the bytes written since power-on, by rising address. A byte
that is not listed has no value of its own; what it reads as is `unlistedByte` (log 3). -/
abbrev Memory := List Host.Cell

/-- The canonical form of the buffer: addresses strictly rising, each an address the buffer has
(R60, R64). -/
abbrev Memory.wf (m : Memory) : Prop :=
  (m.map Prod.fst).Pairwise (· < ·) ∧ ∀ c ∈ m, c.1 < params.bufBytes

/-- The state of one decoder block. -/
structure State where
  /-- Stamp of the START that began the current read (R21). -/
  hostPullDownTime : Stamp
  /-- Stamp of the last ALARM (R22). -/
  hostPullUpTime : Stamp
  /-- Stamp of the last EDGE_RISE (R23). -/
  lastDevicePullUpTime : Stamp
  /-- Position in the frame, unsigned modulo 2^W (R25, R26). -/
  bitIndex : BitIdx
  /-- The eight independent flags in one word (R28, R30). -/
  statusFlags : StatusWord
  /-- The result buffer (R27). -/
  dataBuffer : Memory
  /-- The configuration of the current read, taken by START (R40, R41). -/
  cfg : CommConfig
  /-- `line_oe`: the pin is an output (R42). -/
  lineOe : Bool
  /-- `line_out`: the level driven (R42). -/
  lineOut : Bool
  /-- `line_pu`: the pull-up is enabled (R42). -/
  linePu : Bool
  /-- `edge_sub`: an edge subscription is active (R43). -/
  edgeSub : Bool
  /-- `alarm_val`: the alarm's absolute counter value (R44). -/
  alarmVal : Counter
  /-- `alarm_pending`: the one-shot alarm is armed and has not fired (R44). -/
  alarmPending : Bool
  /-- `done` and `done_ctx`, output of the last event: `none` = no pulse, `some c` = the pulse with
  context `c` (R45; U20; log 5). -/
  done : Option Nat
  /-- `err`, output of the last event: `some m` = START returned the error mask `m` (R132), `none` =
  the event was a handler, which returns nothing (60_exceptions.md R235; log 5). -/
  err : Option StatusWord
  /-- MODEL's own: `NOW` of the last event admitted (30_encoding.md R94; log 4). -/
  lastNow : Counter
  /-- MODEL's own: the events the environment has yet to deliver, oldest first (R47; log 1). -/
  trace : List EventInput
deriving DecidableEq, Repr

/-- Why something stops with a fault. No step of the machine faults: "No case in this block is
treated as `fault`" (93_implementation_defined.md section 4). -/
inductive Fault where
  /-- Raised by the caller's read port `Machine.callerRead` alone, for an address outside the buffer
  (20_memory.md R60: the addresses are 0 to 4). Safe: no event reaches it (log 19). -/
  | noSuchAddress (addr : Nat)
deriving DecidableEq, Repr

/-- Why an event is refused: no step, the trace is not admitted (00_scope.md R11). All but the first
are the spec's own refusals and safe: they err toward unprovable (92_eei_decisions.md D7, D11, D14,
D16). -/
inductive Refusal where
  /-- Raised by an arm of `exec` whose instruction has no meaning yet. Safe. No arm is left so. -/
  | notModelled (mnemonic : String)
  /-- Raised by `step` for one of the nine reserved event words (30_encoding.md R96; U21). Safe. -/
  | reservedEventWord (ev : EventWord)
  /-- Raised by START while an alarm is pending (40_start.md R134; U1). Safe. -/
  | startWhileAlarmPending
  /-- Raised by ALARM while none is pending (41_phase_transition.md R151; U22). Safe. -/
  | alarmNotPending
  /-- Raised by ALARM before the counter has reached the alarm value (R151; U22). Safe. -/
  | alarmBeforeValue
  /-- Raised by EDGE_RISE and EDGE_FALL without a subscription (42_edge_decoder.md R160; U23). Safe. -/
  | edgeNotSubscribed
  /-- Raised by every event whose `NOW` lies below the previous event's (R94; U24). Safe. -/
  | nowBelowPrevious
deriving DecidableEq, Repr

/-- Power-on (70_reset_and_hazards.md R270; R48): `edge_sub` = 0, `alarm_pending` = 0, `done` = 0;
every other register of the block holds a value the spec leaves unspecified and of which nothing is
known (log 2); no byte of the buffer has been written (log 3); no event is waiting (log 1). -/
def State.reset : State where
  hostPullDownTime := Config.powerOnHostPullDownTime
  hostPullUpTime := Config.powerOnHostPullUpTime
  lastDevicePullUpTime := Config.powerOnLastDevicePullUpTime
  bitIndex := Config.powerOnBitIndex
  statusFlags := Config.powerOnStatusFlags
  dataBuffer := []
  cfg := Config.powerOnCfg
  lineOe := Config.powerOnLineOe
  lineOut := Config.powerOnLineOut
  linePu := Config.powerOnLinePu
  edgeSub := false
  alarmVal := Config.powerOnAlarmVal
  alarmPending := false
  done := none
  err := none
  lastNow := 0
  trace := []

/-- The outcome of a step of this machine. -/
abbrev Result := Host.Outcome State Fault Refusal

end Sys2Proof.Machine
end

