-- ==== Sys2Proof/Machine/Flags.lean ====
section
/-! DEFINITION. The status word: eight independent accumulating bits (10_state.md R28 to R38;
30_encoding.md R99). They are no enumeration: any combination is a value of the word (R39). -/

namespace Sys2Proof.Machine

/-- The eight named flags, in the source's order (R28). -/
inductive Flag where
  | ready | valid | phaseHost | phaseDevice
  | gpioRegisterError | timerRegisterError | bitReadError | bitOverflowError
deriving DecidableEq, Repr

/-- `pos(F)` (R30; decision D5, log 8). -/
def Flag.pos : Flag → Nat
  | .ready => 0
  | .valid => 1
  | .phaseHost => 2
  | .phaseDevice => 3
  | .gpioRegisterError => 4
  | .timerRegisterError => 5
  | .bitReadError => 6
  | .bitOverflowError => 7

/-- The mask column of R30. -/
def Flag.mask (f : Flag) : StatusWord := 1 <<< f.pos

/-- `F?` reads the bit (00_scope.md R10). -/
def flag (f : Flag) (s : State) : Bool := s.statusFlags.getLsbD f.pos

/-- `set F`: the bit to 1, other bits unchanged (00_scope.md R10). -/
def setFlag (f : Flag) (s : State) : State := { s with statusFlags := s.statusFlags ||| f.mask }

/-- `clear F`: the bit to 0, other bits unchanged (00_scope.md R10). -/
def clearFlag (f : Flag) (s : State) : State := { s with statusFlags := s.statusFlags &&& ~~~f.mask }

/-- `ERR_MASK` selects the four error flags (R99): 0xF0. -/
def errMask : StatusWord :=
  Flag.gpioRegisterError.mask ||| Flag.timerRegisterError.mask |||
    Flag.bitReadError.mask ||| Flag.bitOverflowError.mask

/-- The word after the reset step of START: exactly PhaseHost (R29). -/
def resetFlags : StatusWord := Flag.phaseHost.mask

end Sys2Proof.Machine
end

