-- ==== Sys2Proof/Machine/Operands.lean ====
section
/-! DEFINITION. The arithmetic primitives (00_scope.md R9) and every operand the operations assemble:
stamps, the elapsed interval, the symbol, the position class, the bit address, the checksum
(30_encoding.md R103 to R108; 42_edge_decoder.md R178). All values are unsigned. -/

namespace Sys2Proof.Machine

/-- `add_N(a, b) = (a + b) mod 2^N` (R9). -/
def addN {n : Nat} (a b : BitVec n) : BitVec n := a + b

/-- `sub_N(a, b) = (a - b) mod 2^N` (R9). -/
def subN {n : Nat} (a b : BitVec n) : BitVec n := a - b

/-- `trunc_N(v)`: the low N bits (R9). -/
def truncN {m : Nat} (n : Nat) (v : BitVec m) : BitVec n := v.setWidth n

/-- `zext_N(v)` (R9); no operation uses it. -/
def zextN {m : Nat} (n : Nat) (v : BitVec m) : BitVec n := v.zeroExtend n

/-- `sext_N(v)` (R9: "defined for completeness; no rule uses it"). -/
def sextN {m : Nat} (n : Nat) (v : BitVec m) : BitVec n := v.signExtend n

/-- `a <u b`: comparison as non-negative integers (R9). -/
def ltU {n : Nat} (a b : BitVec n) : Bool := decide (a.toNat < b.toNat)

/-- `now = trunc_T(NOW)`, the value stored or subtracted (R12). -/
def stampOf (now : Counter) : Stamp := truncN params.tsW now

/-- A count of the counter's units in microseconds (R7, `TICK`). -/
def microseconds (units : Nat) : Nat := units * params.tickUs

/-- A time in microseconds as a count of the counter's units (R7, `TICK`). -/
def counterUnits (us : Nat) : Nat := us / params.tickUs

/-- The alarm's absolute value, from the untruncated `NOW` (40_start.md R130, R136; log 13). -/
def alarmTime (now : Counter) : Counter := addN now (BitVec.ofNat _ (counterUnits params.hostLowUs))

/-- `elapsed = sub_T(trunc_T(NOW), lastDevicePullUpTime)` (R105; 42_edge_decoder.md R163). -/
def elapsed (now : Counter) (lastRise : Stamp) : Stamp := subN (stampOf now) lastRise

/-- The value of `bitIndex` that the source writes as "-2": 2^W - `SYNC_PULSES` (R25). -/
def bitIndexStart : BitIdx := subN 0 (BitVec.ofNat _ params.syncPulses)

/-- What an interval in the data-bit window stands for (R103). -/
inductive Symbol where
  | bit0 | bit1 | err
deriving DecidableEq, Repr

/-- The symbol table (R103) of an interval, in microseconds, bounds inclusive, unsigned (decision D4). -/
def symbol (e : Stamp) : Symbol :=
  if params.oneMin ≤ microseconds e.toNat ∧ microseconds e.toNat ≤ params.oneMax then .bit1
  else if params.zeroMin ≤ microseconds e.toNat ∧ microseconds e.toNat ≤ params.zeroMax then .bit0
  else .err

/-- The position of a falling edge in the frame (R107). -/
inductive PosClass where
  /-- Data-bit window: the bit address is `bitIndex` itself (R106). -/
  | data (n : BitAddr)
  /-- A sync pulse. -/
  | sync
  /-- Beyond the frame. -/
  | excess
deriving DecidableEq, Repr

/-- `PosClass(b)` (R107): the unsigned test `b <u 40` first, then the wrap test
`add_W(b, 2) <u b` (42_edge_decoder.md R170). -/
def posClass (b : BitIdx) : PosClass :=
  if h : b.toNat < params.frameBits then .data ⟨b.toNat, Nat.lt_of_lt_of_le h (by decide)⟩
  else if ltU (addN b (BitVec.ofNat _ params.syncPulses)) b then .sync
  else .excess

/-- The byte address of a bit address, `N div 8` (20_memory.md R63; R106). -/
def byteAddr (n : BitAddr) : BufAddr := ⟨n.val / 8, by omega⟩

/-- The mask of a bit address, `0x80 >> (N mod 8)`: most significant bit first (20_memory.md R62, R63). -/
def bitMask (n : BitAddr) : Byte := 0x80#8 >>> (n.val % 8)

/-- The sum of the checksum code, three `add_8` (R108). -/
def sum8 (b0 b1 b2 b3 : Byte) : Byte := addN (addN (addN b0 b1) b2) b3

end Sys2Proof.Machine
end

