-- ==== Sys2Proof/Machine/Ops.lean ====
section
/-! DEFINITION. The shared operations: the result buffer, the capabilities of the line and the timer
(60_exceptions.md R241, R242), the recording of an error, the frame completion, and the admission of
an event. -/

namespace Sys2Proof.Machine

/-! ## The result buffer (20_memory.md) -/

/-- What a byte reads as that nothing has written since power-on: unspecified (R48), a free value
(log 3). -/
def unlistedByte (a : BufAddr) : Byte := Config.powerOnByte a.val

/-- The byte listed at an address, if one is. -/
def Memory.lookup : Memory → Nat → Option Byte
  | [], _ => none
  | c :: m, a => if c.1 = a then some c.2 else Memory.lookup m a

/-- The memory with one byte listed, addresses kept rising. -/
def Memory.insert (a : Nat) (v : Byte) : Memory → Memory
  | [] => [(a, v)]
  | c :: m =>
    if a < c.1 then (a, v) :: c :: m
    else if a = c.1 then (a, v) :: m
    else c :: Memory.insert a v m

/-- `MemRead(a, 1)` (00_scope.md R10; R66). -/
def memRead (a : BufAddr) (s : State) : Byte := (Memory.lookup s.dataBuffer a.val).getD (unlistedByte a)

/-- `MemWrite(a, 1, v)` (00_scope.md R10; R66). -/
def memWrite (a : BufAddr) (v : Byte) (s : State) : State :=
  { s with dataBuffer := Memory.insert a.val v s.dataBuffer }

/-- `SetBit(N)` (R63): the one read-modify-write, a bitwise OR into one byte. -/
def setBit (n : BitAddr) (s : State) : State :=
  memWrite (byteAddr n) (memRead (byteAddr n) s ||| bitMask n) s

/-- `for i in 0..4: MemWrite(i, 1, 0x00)` (R65 (a)), over all `BUF_BYTES` addresses. -/
def zeroBuffer (s : State) : State :=
  (List.finRange params.bufBytes).foldl (fun t i => memWrite i 0x00#8 t) s

/-- The bit of the buffer at a bit address: bit `7 - (N mod 8)` of byte `N div 8` (R62). -/
def bufferBit (n : BitAddr) (s : State) : Bool := (memRead (byteAddr n) s).getLsbD (7 - n.val % 8)

/-- The checksum test (30_encoding.md R108; 42_edge_decoder.md R173). -/
def checksumMatches (s : State) : Bool :=
  sum8 (memRead 0 s) (memRead 1 s) (memRead 2 s) (memRead 3 s) == memRead 4 s

/-! ## Errors: what stands where another machine takes an exception

No operation traps: "Taking an event saves nothing and changes no mode, mask or stack in the block"
(60_exceptions.md R220, R234). The place of `raise` is taken by `set <ErrorFlag>` (00_scope.md R11),
and a handler's return changes nothing but what its own pseudocode says (R235). -/

/-- Records an error flag; control goes on (R220 to R224). -/
def recordError (f : Flag) (s : State) : State := setFlag f s

/-! ## The capabilities of the edge source and of the line (60_exceptions.md R241) -/

/-- `deregister(pin)`. -/
def edgeDeregister (s : State) : State := { s with edgeSub := false }

/-- `register(pin, anyEdge, handler, context)` with its result: a failure sets GpioRegisterError and
leaves no subscription (40_start.md R130, R133; log 14). -/
def edgeRegister (failed : Bool) (s : State) : State :=
  if failed then recordError .gpioRegisterError s else { s with edgeSub := true }

/-- `setDirection(pin, out|in)`. -/
def setDirection (out : Bool) (s : State) : State := { s with lineOe := out }

/-- `setLevel(pin, bool)`. -/
def setLevel (high : Bool) (s : State) : State := { s with lineOut := high }

/-- `enablePullup(pin)`; nothing ever disables it (10_state.md R42). -/
def enablePullup (s : State) : State := { s with linePu := true }

/-! ## The capabilities of the timer source (60_exceptions.md R242) -/

/-- `setAlarmValue(group, index, absoluteMicroseconds)`. -/
def setAlarmValue (v : Counter) (s : State) : State := { s with alarmVal := v }

/-- `registerAlarmCallback`, `enableInterrupt`, `armAlarm`, with the registration's result: a failure
sets TimerRegisterError and no alarm is pending (40_start.md R130, R133; log 14). -/
def armAlarm (failed : Bool) (s : State) : State :=
  if failed then recordError .timerRegisterError s else { s with alarmPending := true }

/-- The ALARM handler's indication not to re-arm (60_exceptions.md R235). -/
def disarmAlarm (s : State) : State := { s with alarmPending := false }

/-! ## Stamps, the position, the configuration, the return value -/

/-- `hostPullDownTime <- trunc_T(NOW)`. -/
def stampPullDown (now : Counter) (s : State) : State := { s with hostPullDownTime := stampOf now }

/-- `hostPullUpTime <- trunc_T(NOW)`. -/
def stampPullUp (now : Counter) (s : State) : State := { s with hostPullUpTime := stampOf now }

/-- `lastDevicePullUpTime <- trunc_T(NOW)`. -/
def stampRise (now : Counter) (s : State) : State := { s with lastDevicePullUpTime := stampOf now }

/-- `bitIndex <- add_W(bitIndex, 1)` (42_edge_decoder.md R171). -/
def advance (s : State) : State := { s with bitIndex := addN s.bitIndex 1 }

/-- START takes the configuration anew (40_start.md R135). -/
def takeConfig (cfg : CommConfig) (s : State) : State := { s with cfg := cfg }

/-- Sub-step 1 of START: the read's state is reset (40_start.md R130). -/
def resetRead (s : State) : State :=
  zeroBuffer { s with statusFlags := resetFlags, bitIndex := bitIndexStart }

/-- `return statusFlags & 0xF0` (40_start.md R132). -/
def returnErrorMask (s : State) : State := { s with err := some (s.statusFlags &&& errMask) }

/-! ## Completion (42_edge_decoder.md R172 to R174) -/

/-- The checksum validator: sets Valid if the sum matches, else writes nothing (R173). -/
def validate (s : State) : State := if checksumMatches s then setFlag .valid s else s

/-- The completion notification: the pulse with the user context, if a callback is configured (R174). -/
def notify (s : State) : State := if s.cfg.cbEn then { s with done := some s.cfg.ctx } else s

/-- The completion sub-step in the source's order: PhaseDevice cleared, Ready set, checksum, callback
(R172). -/
def complete (s : State) : State := notify (validate (setFlag .ready (clearFlag .phaseDevice s)))

/-- Completion runs when the new `bitIndex` is 40 and Ready is not yet set, which is what "for the
first time" means (R172; decision D15). -/
def completeIfDone (s : State) : State :=
  if s.bitIndex = BitVec.ofNat _ params.frameBits ∧ flag .ready s = false then complete s else s

/-! ## The admission of an event -/

/-- What precedes every operation's own effect: `done <- 0`, nothing returned yet, and the trace's
time moves on (30_encoding.md R94). -/
def beginEvent (now : Counter) (s : State) : State := { s with lastNow := now, done := none, err := none }

/-- An event is one atomic step (00_scope.md R13) where it is enabled and its `NOW` does not lie below
the previous event's; else it is refused (30_encoding.md R94, R97; log 6). `disabled` names the
enabling condition that fails, if one does. -/
def takeEvent (disabled : Option Refusal) (now : Counter) (s : State) (body : State → State) : Result :=
  match disabled with
  | some r => .refused r
  | none => if ltU now s.lastNow then .refused .nowBelowPrevious else .next (body (beginEvent now s))

/-- START is enabled when no alarm is pending (40_start.md R134). -/
def startDisabled (s : State) : Option Refusal :=
  if s.alarmPending then some .startWhileAlarmPending else none

/-- ALARM is enabled when one is pending and `NOW ≥ alarm_val` (41_phase_transition.md R151). -/
def alarmDisabled (now : Counter) (s : State) : Option Refusal :=
  if s.alarmPending then (if ltU now s.alarmVal then some .alarmBeforeValue else none)
  else some .alarmNotPending

/-- EDGE_RISE and EDGE_FALL are enabled when a subscription is active, in any phase
(42_edge_decoder.md R160; log 10). -/
def edgeDisabled (s : State) : Option Refusal :=
  if s.edgeSub then none else some .edgeNotSubscribed

/-- The next event of the trace and the state without it: the valid strobe (60_exceptions.md R244). -/
def nextEvent (s : State) : Option (EventInput × State) :=
  match s.trace with
  | [] => none
  | e :: rest => some (e, { s with trace := rest })

/-- The refusal of an event word that the decoder rejects (30_encoding.md R96). -/
def refusalOf : DecodeError → Refusal
  | .reservedEventWord ev => .reservedEventWord ev

/-- The state with an event put before all the others, and the trace's time at that event's `NOW`,
so that the event is not refused as out of order (log 20). -/
def presentFirst (e : EventInput) (s : State) : State :=
  { s with trace := e :: s.trace, lastNow := e.now }

end Sys2Proof.Machine
end

