-- ==== Sys2Proof/Machine/Alarm.lean ====
section
/-! DEFINITION. ALARM, the phase-transition handler (41_phase_transition.md R150 to R154). -/

namespace Sys2Proof.Machine

/-- The lines of ALARM in the source's order (R150); `done <- 0` is part of `beginEvent`. -/
def alarmBody (now : Counter) (s : State) : State :=
  let s := stampPullUp now s
  let s := setFlag .phaseDevice (clearFlag .phaseHost s)
  let s := setDirection false (enablePullup (setLevel true s))
  disarmAlarm s

/-- ALARM (R150), refused unless an alarm is pending and due (R151). -/
def execAlarm (now : Counter) (s : State) : Result :=
  takeEvent (alarmDisabled now s) now s (alarmBody now)

end Sys2Proof.Machine
end

