-- ==== Sys2Proof/Machine/Edge.lean ====
section
/-! DEFINITION. EDGE_RISE and EDGE_FALL, the edge decoder (42_edge_decoder.md R160 to R179). -/

namespace Sys2Proof.Machine

/-- EDGE_RISE records the stamp and nothing else (R161). -/
def execEdgeRise (now : Counter) (s : State) : Result :=
  takeEvent (edgeDisabled s) now s (stampRise now)

/-- The effect of a symbol at a data position: BIT1 sets the bit, BIT0 writes nothing, ERR sets
BitReadError and writes no bit (R165 to R167). -/
def recordSymbol (n : BitAddr) (sym : Symbol) (s : State) : State :=
  match sym with
  | .bit1 => setBit n s
  | .bit0 => s
  | .err => recordError .bitReadError s

/-- The classification, on the value of `bitIndex` before the advance (R164): a data position takes
its symbol, a sync pulse is a no-op (R168), an excess edge sets BitOverflowError (R169). -/
def classifyFall (e : Stamp) (s : State) : State :=
  match posClass s.bitIndex with
  | .data n => recordSymbol n (symbol e) s
  | .sync => s
  | .excess => recordError .bitOverflowError s

/-- The lines of EDGE_FALL (R162): classification, the unconditional advance (R171), completion
(R172). `done <- 0` is part of `beginEvent`. -/
def fallBody (now : Counter) (s : State) : State :=
  completeIfDone (advance (classifyFall (elapsed now s.lastDevicePullUpTime) s))

/-- EDGE_FALL (R162), refused without a subscription (R160). -/
def execEdgeFall (now : Counter) (s : State) : Result :=
  takeEvent (edgeDisabled s) now s (fallBody now)

end Sys2Proof.Machine
end

