-- ==== Sys2Proof/Machine/Start.lean ====
section
/-! DEFINITION. START, the read initiator (40_start.md R130 to R137). -/

namespace Sys2Proof.Machine

/-- The sub-steps of START in the source's order (R130), one atomic step. `done <- 0` is part of
`beginEvent`. -/
def startBody (gf tf : Bool) (now : Counter) (cfg : CommConfig) (s : State) : State :=
  let s := resetRead (takeConfig cfg s)
  let s := edgeDeregister s
  let s := setDirection true s
  let s := stampPullDown now (setLevel false s)
  let s := edgeRegister gf s
  let s := setAlarmValue (alarmTime now) s
  let s := armAlarm tf s
  returnErrorMask s

/-- START (R130), refused while an alarm is pending (R134). -/
def execStart (gf tf : Bool) (now : Counter) (cfg : CommConfig) (s : State) : Result :=
  takeEvent (startDisabled s) now s (startBody gf tf now cfg)

end Sys2Proof.Machine
end

