-- ==== Sys2Proof/Machine/Dispatch.lean ====
section
/-! DEFINITION. One arm per event of the opcode table (30_encoding.md R95). -/

namespace Sys2Proof.Machine

def exec (i : Instr) (s : State) : Host.Outcome State Fault Refusal :=
  match i with
  | .start gf tf now cfg => Sys2Proof.Machine.execStart gf tf now cfg s
  | .alarm now => Sys2Proof.Machine.execAlarm now s
  | .edgeFall now => Sys2Proof.Machine.execEdgeFall now s
  | .edgeRise now => Sys2Proof.Machine.execEdgeRise now s

end Sys2Proof.Machine
end

