-- ==== Sys2Proof/Machine/Step.lean ====
section
/-! DEFINITION. One step: the next event of the trace is decoded and run. The block has no step of its
own: "with no event it does not change state" (00_scope.md R16). -/

namespace Sys2Proof.Machine

/-- One step. No event: nothing changes (R16; log 1). A reserved event word: refused (30_encoding.md
R96). Else the event's operation, on the state without it. -/
def step (s : State) : Host.Outcome State Fault Refusal :=
  match nextEvent s with
  | none => .next s
  | some (e, s') =>
    match decode e with
    | .ok i => exec i s'
    | .error r => .refused (refusalOf r)

/-- The table word `w` presented as the very next event, its operands zeros (log 20). `nbits` is not
needed: an event word has one length (30_encoding.md R90). -/
def State.withFetchWord (s : State) (_nbits w : Nat) : State := presentFirst (tableInput w) s

end Sys2Proof.Machine
end

