-- ==== Sys2Proof/Machine/Caller.lean ====
section
/-! DEFINITION. What the caller sees (43_caller_interface.md R200 to R207): reads of the block's
outputs, which no event encodes and which change nothing (20_memory.md R67). There is no other
operation of the caller but START (R205). -/

namespace Sys2Proof.Machine

/-- A poll of the status word (R201). -/
def callerFlags (s : State) : StatusWord := s.statusFlags

/-- A read of one byte of the buffer (R200, R202); an address the buffer does not have faults
(log 19). -/
def callerRead (addr : Nat) (s : State) : Except Fault Byte :=
  if h : addr < params.bufBytes then .ok (memRead ⟨addr, h⟩ s) else .error (.noSuchAddress addr)

/-- What a poll tells the caller (R201). -/
inductive ReadStatus where
  /-- Ready = 0: still running, or never to finish. -/
  | incomplete
  /-- Ready = 1, Valid = 1. -/
  | complete
  /-- Ready = 1, Valid = 0. -/
  | checksumMismatch
deriving DecidableEq, Repr

/-- The reading of the status word by R201. -/
def readStatus (s : State) : ReadStatus :=
  if flag .ready s then (if flag .valid s then .complete else .checksumMismatch) else .incomplete

/-- The boolean reading of START's return value: whether any error bit is set (40_start.md R132; R204).
DESIGN CHOICE (log 5): `none` in a state whose last event is no START, and at power-on. The spec defines
the value at the end of START only, so there is no answer to give there and none is made up. -/
def startFailed (s : State) : Option Bool := s.err.map (· != 0)

/-- Bytes 0 and 1, raw humidity (20_memory.md R61); their number format is the caller's (R207). -/
def rawHumidity (s : State) : Byte × Byte := (memRead 0 s, memRead 1 s)

/-- Bytes 2 and 3, raw temperature (20_memory.md R61). -/
def rawTemperature (s : State) : Byte × Byte := (memRead 2 s, memRead 3 s)

/-- The temperature sign, bit address 16: the top bit of byte 2 (20_memory.md R61). -/
def temperatureSign (s : State) : Bool := bufferBit 16 s

/-- Byte 4, the checksum (20_memory.md R61). -/
def rawChecksum (s : State) : Byte := memRead 4 s

end Sys2Proof.Machine
end

