-- ==== Sys2Proof/Machine/Trace.lean ====
section
/-! DEFINITION. Traces: sequences of events run one after another (00_scope.md R15; 20_memory.md R68),
what a trace says of its falling edges, its written form (30_encoding.md R111) and the pseudo-events
(R112). -/

namespace Sys2Proof.Machine

/-- Each event is processed completely before the next begins (20_memory.md R68); the first event that
is not admitted ends the run. -/
def runEvents : List Instr → State → Result
  | [], s => .next s
  | i :: is, s =>
    match exec i s with
    | .next t => runEvents is t
    | .fault r => .fault r
    | .refused r => .refused r

/-- START is what begins a read; a trace without one stays inside the read (00_scope.md R15). -/
def isStart : Instr → Bool
  | .start _ _ _ _ => true
  | .alarm _ => false
  | .edgeFall _ => false
  | .edgeRise _ => false

/-- EDGE_RISE or EDGE_FALL. -/
def isEdge : Instr → Bool
  | .start _ _ _ _ => false
  | .alarm _ => false
  | .edgeFall _ => true
  | .edgeRise _ => true

/-- Whether a trace holds no START. -/
def withinRead (is : List Instr) : Bool := is.all fun i => !isStart i

/-- The interval that each falling edge of a trace measures, in order: from the last rising edge, or
from `rise` where none precedes it in the trace (30_encoding.md R104, R105). A function of the trace
alone. -/
def fallIntervals : List Instr → Stamp → List Stamp
  | [], _ => []
  | .start _ _ _ _ :: is, rise => fallIntervals is rise
  | .alarm _ :: is, rise => fallIntervals is rise
  | .edgeFall now :: is, rise => (now.setWidth _ - rise) :: fallIntervals is rise
  | .edgeRise now :: is, _ => fallIntervals is (now.setWidth _)

/-! ## The written form of an event (R111) -/

/-- A one-bit operand as written. -/
def showBit (b : Bool) : String := if b then "1" else "0"

/-- `@<NOW>`, decimal microseconds. -/
def showNow (now : Counter) : String := " @" ++ toString now.toNat

/-- The line of a trace (R111). -/
def showEvent : Instr → String
  | .start gf tf now _ => "START gf=" ++ showBit gf ++ " tf=" ++ showBit tf ++ showNow now
  | .alarm now => "ALARM" ++ showNow now
  | .edgeFall now => "FALL" ++ showNow now
  | .edgeRise now => "RISE" ++ showNow now

/-! ## Pseudo-events (R112): each expands from the time `t` of the previous event and hands on the
time of its own last event -/

/-- `CELL(l, h)`: the line low for `l`, then high for `h`. -/
def cell (l h : Counter) (t : Counter) : List Instr × Counter :=
  ([.edgeRise (t + l), .edgeFall (t + l + h)], t + l + h)

/-- `BIT0` = `CELL(50, 26)`. -/
def cell0 : Counter → List Instr × Counter := cell 50 26

/-- `BIT1` = `CELL(50, 70)`. -/
def cell1 : Counter → List Instr × Counter := cell 50 70

/-- `SYNC2(d)`: the two sync falling edges, the first `d` after the previous event. -/
def sync2 (d : Counter) (t : Counter) : List Instr × Counter :=
  ([.edgeFall (t + d), .edgeRise (t + d + 80), .edgeFall (t + d + 160)], t + d + 160)

/-- One pseudo-event after another. -/
def inSequence : List (Counter → List Instr × Counter) → Counter → List Instr × Counter
  | [], t => ([], t)
  | p :: ps, t => ((p t).1 ++ (inSequence ps (p t).2).1, (inSequence ps (p t).2).2)

/-- `BYTE(v)`: eight cells, bit 7 of `v` first. -/
def byteCells (v : Byte) : Counter → List Instr × Counter :=
  inSequence ([7, 6, 5, 4, 3, 2, 1, 0].map fun k => if v.getLsbD k then cell1 else cell0)

/-- `FRAME(b0, b1, b2, b3, b4)`. -/
def frameCells (b0 b1 b2 b3 b4 : Byte) : Counter → List Instr × Counter :=
  inSequence [byteCells b0, byteCells b1, byteCells b2, byteCells b3, byteCells b4]

end Sys2Proof.Machine
end

