-- ==== Sys2Proof/Safety.lean ====
section
/-! DEFINITION. What claims are stated in terms of: the invariant of every step, the phases of a read,
what each operation leaves alone, and the premises of the envelope (70_reset_and_hazards.md). -/

namespace Sys2Proof.Machine

/-- The event is admitted: it is a step and not a refusal. -/
def Admitted (i : Instr) (s : State) : Prop := ∃ t, exec i s = .next t

/-- What every step of the machine keeps, from power-on on. The clauses under `edgeSub` or
`alarmPending` speak of a state that a START has prepared (before one, both are 0 and the registers
are unspecified, R48, R271). -/
structure Inv (s : State) : Prop where
  /-- The buffer keeps its canonical form. -/
  bufferForm : Memory.wf s.dataBuffer
  /-- Under a subscription every byte of the buffer has been written (START zeroes all five). -/
  bufferWritten : s.edgeSub = true → ∀ a : BufAddr, (Memory.lookup s.dataBuffer a.val).isSome = true
  /-- "Valid = 1 implies Ready = 1" (10_state.md R32). -/
  validReady : s.edgeSub = true → flag .valid s = true → flag .ready s = true
  /-- While Ready is 0, `bitIndex` has not reached 40 in this read: it is a sync value or a data
  position (42_edge_decoder.md R172). -/
  unreadyPosition : s.edgeSub = true → flag .ready s = false → s.bitIndex.toNat < 40 ∨ 254 ≤ s.bitIndex.toNat
  /-- BitOverflowError is raised only after Ready (60_exceptions.md R224). -/
  overflowReady : s.edgeSub = true → flag .bitOverflowError s = true → flag .ready s = true
  /-- A pending alarm belongs to the Host phase, with the line driven low (R33, R237). -/
  alarmHost : s.alarmPending = true → flag .phaseHost s = true ∧ s.lineOe = true ∧ s.lineOut = false
  /-- The pending alarm's value and the pull-down stamp agree in their low T bits (40_start.md R136). -/
  alarmStamp : s.alarmPending = true → s.alarmVal.setWidth 32 = s.hostPullDownTime + 1000#32
  /-- In the Host phase the line is driven low (R237). -/
  hostLine : s.edgeSub = true → flag .phaseHost s = true → s.lineOe = true ∧ s.lineOut = false
  /-- In the Device phase the line is released, the pull-up on (R237). -/
  deviceLine : s.edgeSub = true → flag .phaseDevice s = true → s.lineOe = false ∧ s.linePu = true
  /-- A notification means a complete frame, carries the configured context and is raised only where a
  callback is configured (R45, 43_caller_interface.md R203). -/
  doneReady : ∀ c, s.done = some c → flag .ready s = true ∧ s.cfg.cbEn = true ∧ c = s.cfg.ctx
  /-- The error mask that START has just returned is the error bits of the status word (R132). -/
  errMasked : ∀ m, s.err = some m → m = s.statusFlags &&& 0xF0#8

/-- The phases of a read inside the envelope (10_state.md R39): Host, Device, complete. -/
def ReadPhase (s : State) : Prop :=
  (flag .phaseHost s = true ∧ flag .phaseDevice s = false ∧ flag .ready s = false ∧ flag .valid s = false ∧
      flag .bitReadError s = false ∧ flag .bitOverflowError s = false ∧ s.bitIndex = 0xFE#8) ∨
  (flag .phaseHost s = false ∧ flag .phaseDevice s = true ∧ flag .ready s = false ∧ flag .valid s = false ∧
      flag .bitOverflowError s = false ∧ s.alarmPending = false ∧
      (s.bitIndex.toNat < 40 ∨ 254 ≤ s.bitIndex.toNat)) ∨
  (flag .phaseHost s = false ∧ flag .phaseDevice s = false ∧ flag .ready s = true ∧ s.alarmPending = false)

/-! ## What the operations leave alone -/

/-- The registers that no EDGE_FALL writes (42_edge_decoder.md R162, "Unchanged"), with the model's
trace. -/
structure FallFrame (s t : State) : Prop where
  hostPullDownTime : t.hostPullDownTime = s.hostPullDownTime
  hostPullUpTime : t.hostPullUpTime = s.hostPullUpTime
  lastDevicePullUpTime : t.lastDevicePullUpTime = s.lastDevicePullUpTime
  cfg : t.cfg = s.cfg
  lineOe : t.lineOe = s.lineOe
  lineOut : t.lineOut = s.lineOut
  linePu : t.linePu = s.linePu
  edgeSub : t.edgeSub = s.edgeSub
  alarmVal : t.alarmVal = s.alarmVal
  alarmPending : t.alarmPending = s.alarmPending
  err : t.err = none
  trace : t.trace = s.trace

/-! ## The premises of the envelope that a claim can need -/

/-- Premise H2 (70_reset_and_hazards.md R280 (b), R282): no edge is delivered in the Host phase. -/
def HostPhaseQuiet (i : Instr) (s : State) : Prop := isEdge i = true → flag .phaseHost s = false

/-- Premise H7 (R287): the true interval from `rise` to `fall` is below 2^T microseconds. -/
def ShortInterval (rise fall : Counter) : Prop := rise ≤ fall ∧ fall.toNat - rise.toNat < 2 ^ 32

/-- Premise H8 (R288): at most 2^W + 2 falling edges in the read. `rise` is the rising edge before it;
it does not matter to the count. -/
def FewFalls (is : List Instr) (rise : Stamp) : Prop := (fallIntervals is rise).length ≤ 258

end Sys2Proof.Machine
end

