-- ==== Sys2Proof/Certificates/Slice0/Obligations.lean ====
section
/-! DEFINITION. The statements for the provers. Each docstring names the rule it formalises. -/

open Sys2Proof Sys2Proof.Machine

/-! ## The step and the encoding -/

/-- A step with an event on the ports is the decoded event's operation on the state without it
(00_scope.md R13, R16). That the events wait in State, one to a step, is the model's choice (log 1). -/
def Obligations.StepRunsDecodedEvent : Prop :=
  ∀ (s : State) (e : EventInput) (rest : List EventInput) (i : Instr),
    s.trace = e :: rest → decode e = .ok i → step s = exec i { s with trace := rest }

/-- "The block has no step of its own: with no event it does not change state" (00_scope.md R16). That an
empty trace is a step which leaves all of State is the model's choice (log 1). -/
def Obligations.IdleStepChangesNothing : Prop := ∀ s : State, s.trace = [] → step s = .next s

/-- All sixteen event words (30_encoding.md R95, R96). The encoding is the spec's own choice (decisions D6,
D7; log 8), and the refusal's name the model's (log 6). -/
def Obligations.EventWordsMeanTheirOperation : Prop :=
  ∀ e : EventInput,
    (e.ev = 0x0#4 → decode e = .ok (.start false false e.now e.cfg)) ∧
    (e.ev = 0x1#4 → decode e = .ok (.start false true e.now e.cfg)) ∧
    (e.ev = 0x2#4 → decode e = .ok (.start true false e.now e.cfg)) ∧
    (e.ev = 0x3#4 → decode e = .ok (.start true true e.now e.cfg)) ∧
    (e.ev = 0x4#4 → decode e = .ok (.alarm e.now)) ∧
    (e.ev = 0x8#4 → decode e = .ok (.edgeFall e.now)) ∧
    (e.ev = 0x9#4 → decode e = .ok (.edgeRise e.now)) ∧
    (e.ev ∈ [0x5#4, 0x6#4, 0x7#4, 0xA#4, 0xB#4, 0xC#4, 0xD#4, 0xE#4, 0xF#4] →
      ∀ (s : State) (rest : List EventInput), s.trace = e :: rest → step s = .refused (.reservedEventWord e.ev))

/-- Every row of the opcode table selects its own event, and no event word belongs to two rows
(30_encoding.md R91 to R95; the encoding is decision D6, log 8). -/
def Obligations.TableRowsSelectTheirEvent : Prop :=
  (∀ e : EventInput, ∀ r ∈ opcodeRows, r.covers e.ev = true → ∃ i, decode e = .ok i ∧ mnemonicOf i = r.mnemonic) ∧
  (∀ ev : EventWord, ∀ r ∈ opcodeRows, ∀ q ∈ opcodeRows, r.covers ev = true → q.covers ev = true → r = q)

/-- Decode and encode agree in both directions, and the decoder accepts exactly the well-formed inputs
(30_encoding.md R90 to R96, the spec's own choice, decision D6, log 8). The configuration port matters to
START alone (log 17). -/
def Obligations.DecodeEncodeAgree : Prop :=
  (∀ i : Instr, decode (encode i) = .ok i) ∧
  (∀ (e : EventInput) (i : Instr), decode e = .ok i →
    (encode i).ev = e.ev ∧ (encode i).now = e.now ∧ (isStart i = true → (encode i).cfg = e.cfg)) ∧
  (∀ e : EventInput, (∃ i, decode e = .ok i) ↔ e.wellFormed = true)

/-- Running the trace that stands on the ports, step by step, is running its events in order
(20_memory.md R68: each event is processed completely before the next begins; decision D20, log 12). -/
def Obligations.StepsFollowTheTrace : Prop :=
  ∀ (is : List Instr) (s : State),
    Host.Core.run Sys2Proof.core is.length { s with trace := is.map encode } = runEvents is { s with trace := [] }

/-! ## Which events are admitted -/

/-- The enabling conditions, exactly (30_encoding.md R97; decisions D10, D14, D16), and their consequence
at power-on. An event must also not lie before the previous one (R94; decision D11, log 4). -/
def Obligations.EventsEnabledExactly : Prop :=
  (∀ (i : Instr) (s : State), s.lastNow ≤ i.now →
    (Admitted i s ↔
      match i with
      | .start _ _ _ _ => s.alarmPending = false
      | .alarm now => s.alarmPending = true ∧ s.alarmVal ≤ now
      | .edgeFall _ => s.edgeSub = true
      | .edgeRise _ => s.edgeSub = true)) ∧
  (∀ i : Instr, isStart i = false → ¬ Admitted i State.reset)

/-- A disabled event is refused under a name of its own. The names and their order are the model's
choice (log 6). -/
def Obligations.DisabledEventsRefusedByName : Prop :=
  (∀ gf tf now cfg s, s.alarmPending = true → exec (.start gf tf now cfg) s = .refused .startWhileAlarmPending) ∧
  (∀ now s, s.alarmPending = false → exec (.alarm now) s = .refused .alarmNotPending) ∧
  (∀ now s, s.alarmPending = true → now < s.alarmVal → exec (.alarm now) s = .refused .alarmBeforeValue) ∧
  (∀ now s, s.edgeSub = false → exec (.edgeFall now) s = .refused .edgeNotSubscribed) ∧
  (∀ now s, s.edgeSub = false → exec (.edgeRise now) s = .refused .edgeNotSubscribed)

/-- "Within a trace `NOW` is non-decreasing from one event to the next" (30_encoding.md R94): an event
whose `NOW` lies below the previous event's is not admitted, an admitted one moves the time on. The
register that remembers the time is the model's own (log 4). -/
def Obligations.NowNeverGoesBack : Prop :=
  ∀ (i : Instr) (s : State),
    (i.now < s.lastNow → ¬ Admitted i s) ∧ (∀ t, exec i s = .next t → s.lastNow ≤ t.lastNow ∧ t.lastNow = i.now)

/-- No step faults: no operation traps (60_exceptions.md R220). -/
def Obligations.NoStepFaults : Prop := ∀ (s : State) (r : Fault), step s ≠ .fault r

/-! ## START -/

/-- START from every state in which it is enabled (40_start.md R130): its encoding, every new value and
every register it leaves alone. -/
def Obligations.StartBeginsARead : Prop :=
  ∀ (gf tf : Bool) (now : Counter) (cfg : CommConfig) (s : State), s.alarmPending = false → s.lastNow ≤ now →
    decode ⟨0b00#2 ++ BitVec.ofBool gf ++ BitVec.ofBool tf, now, cfg⟩ = .ok (.start gf tf now cfg) ∧
    ∃ t, exec (.start gf tf now cfg) s = .next t ∧
      t.statusFlags = 0x04#8 ||| (if gf then 0x10#8 else 0#8) ||| (if tf then 0x20#8 else 0#8) ∧
      t.bitIndex = 0xFE#8 ∧ (∀ a : BufAddr, memRead a t = 0x00#8) ∧
      t.edgeSub = !gf ∧ t.lineOe = true ∧ t.lineOut = false ∧
      t.hostPullDownTime = now.setWidth 32 ∧ t.alarmVal = now + 1000#64 ∧ t.alarmPending = !tf ∧
      t.done = none ∧ t.err = some (t.statusFlags &&& 0xF0#8) ∧ t.cfg = cfg ∧
      t.hostPullUpTime = s.hostPullUpTime ∧ t.lastDevicePullUpTime = s.lastDevicePullUpTime ∧
      t.linePu = s.linePu ∧ t.lastNow = now ∧ t.trace = s.trace

/-- The return value of START is one of four masks and is non-zero exactly when an error bit is set, which
is the caller's boolean reading of it (40_start.md R132; the form of the value is decision D13). -/
def Obligations.StartReturnsTheErrorMask : Prop :=
  ∀ (gf tf : Bool) (now : Counter) (cfg : CommConfig) (s : State), s.alarmPending = false → s.lastNow ≤ now →
    ∃ (t : State) (m : Byte), exec (.start gf tf now cfg) s = .next t ∧ t.err = some m ∧
      m = t.statusFlags &&& 0xF0#8 ∧
      m = (match gf, tf with
        | false, false => 0x00#8
        | true, false => 0x10#8
        | false, true => 0x20#8
        | true, true => 0x30#8) ∧
      (m ≠ 0x00#8 ↔ flag .gpioRegisterError t = true ∨ flag .timerRegisterError t = true ∨
        flag .bitReadError t = true ∨ flag .bitOverflowError t = true) ∧
      startFailed t = some (gf || tf)

/-- START is refused while an alarm is pending; in any other state it is enabled and forgets the prior
read's flags, position and buffer (40_start.md R134; the refusal is decision D14, its name log 6). -/
def Obligations.StartRefusedOnlyWhileAlarmPending : Prop :=
  ∀ (gf tf : Bool) (now : Counter) (cfg : CommConfig) (s : State), s.lastNow ≤ now →
    (s.alarmPending = true → exec (.start gf tf now cfg) s = .refused .startWhileAlarmPending) ∧
    (s.alarmPending = false → ∃ t, exec (.start gf tf now cfg) s = .next t ∧
      t.statusFlags &&& 0xCF#8 = 0x04#8 ∧ t.bitIndex = 0xFE#8 ∧ ∀ a : BufAddr, memRead a t = 0x00#8)

/-- After a START whose edge registration failed no edge is admitted in the read and Ready stays 0
(40_start.md R133, 60_exceptions.md R221; decision D16, log 14). -/
def Obligations.NoEdgeAfterFailedEdgeRegistration : Prop :=
  ∀ (tf : Bool) (now : Counter) (cfg : CommConfig) (s s0 t : State) (is : List Instr) (i : Instr),
    exec (.start true tf now cfg) s = .next s0 → withinRead is = true → runEvents is s0 = .next t →
    flag .ready t = false ∧ (isEdge i = true → ¬ Admitted i t)

/-- After a START whose timer registration failed no ALARM is admitted in the read: the line stays
driven low and PhaseHost set (40_start.md R133, 60_exceptions.md R222; decision D16, log 14). -/
def Obligations.LineHeldLowAfterFailedTimerRegistration : Prop :=
  ∀ (gf : Bool) (now later : Counter) (cfg : CommConfig) (s s0 t : State) (is : List Instr),
    exec (.start gf true now cfg) s = .next s0 → withinRead is = true → runEvents is s0 = .next t →
    ¬ Admitted (.alarm later) t ∧ t.lineOe = true ∧ t.lineOut = false ∧ flag .phaseHost t = true ∧
      t.hostPullUpTime = s.hostPullUpTime

/-! ## ALARM -/

/-- ALARM from every state in which it is enabled (41_phase_transition.md R150): its encoding, every new
value and every register it leaves alone. -/
def Obligations.AlarmHandsTheLineOver : Prop :=
  ∀ (now : Counter) (s : State), s.alarmPending = true → s.alarmVal ≤ now → s.lastNow ≤ now →
    (∀ cfg, decode ⟨0x4#4, now, cfg⟩ = .ok (.alarm now)) ∧
    ∃ t, exec (.alarm now) s = .next t ∧
      t.hostPullUpTime = now.setWidth 32 ∧
      t.statusFlags = (s.statusFlags &&& 0xFB#8) ||| 0x08#8 ∧
      t.lineOut = true ∧ t.linePu = true ∧ t.lineOe = false ∧ t.alarmPending = false ∧
      t.done = none ∧ t.err = none ∧
      t.bitIndex = s.bitIndex ∧ (∀ a : BufAddr, memRead a t = memRead a s) ∧
      t.hostPullDownTime = s.hostPullDownTime ∧ t.lastDevicePullUpTime = s.lastDevicePullUpTime ∧
      t.edgeSub = s.edgeSub ∧ t.alarmVal = s.alarmVal ∧ t.cfg = s.cfg ∧ t.lastNow = now ∧ t.trace = s.trace

/-- Single shot: after an ALARM, and after a START whose timer registration failed, no ALARM is
admitted until the next START (41_phase_transition.md R152, which the spec marks as derived). -/
def Obligations.AlarmIsSingleShot : Prop :=
  ∀ (s s0 t : State) (is : List Instr) (later : Counter) (i : Instr),
    (match i with
      | .start _ tf _ _ => tf = true
      | .alarm _ => True
      | .edgeFall _ => False
      | .edgeRise _ => False) →
    exec i s = .next s0 → withinRead is = true → runEvents is s0 = .next t → ¬ Admitted (.alarm later) t

/-- ALARM comes at the earliest 1000 microseconds after its START, and the two host stamps differ by
the true interval while that is below 2^32 (40_start.md R136, 41_phase_transition.md R151). The
premise excludes a wrap of the 64-bit counter. -/
def Obligations.AlarmAtLeastHostLowAfterStart : Prop :=
  ∀ (gf tf : Bool) (now later : Counter) (cfg : CommConfig) (s s0 t u : State) (is : List Instr),
    exec (.start gf tf now cfg) s = .next s0 → withinRead is = true → runEvents is s0 = .next t →
    exec (.alarm later) t = .next u → now.toNat + 1000 < 2 ^ 64 →
    now.toNat + 1000 ≤ later.toNat ∧
      (later.toNat - now.toNat < 2 ^ 32 →
        (u.hostPullUpTime - u.hostPullDownTime).toNat = later.toNat - now.toNat)

/-! ## EDGE_RISE -/

/-- EDGE_RISE: its encoding; it records the stamp and changes nothing else (42_edge_decoder.md R161). -/
def Obligations.EdgeRiseRecordsTheStampOnly : Prop :=
  ∀ (now : Counter) (s : State), s.edgeSub = true → s.lastNow ≤ now →
    (∀ cfg, decode ⟨0x9#4, now, cfg⟩ = .ok (.edgeRise now)) ∧
    exec (.edgeRise now) s =
      .next { s with lastDevicePullUpTime := now.setWidth 32, done := none, err := none, lastNow := now }

/-! ## EDGE_FALL, class by class -/

/-- Class SYNC: only the increment happens; the elapsed time is not looked at (42_edge_decoder.md
R168). -/
def Obligations.SyncFallOnlyAdvances : Prop :=
  ∀ (now : Counter) (s : State), s.edgeSub = true → s.lastNow ≤ now → s.bitIndex = 0xFE#8 ∨ s.bitIndex = 0xFF#8 →
    exec (.edgeFall now) s =
      .next { s with bitIndex := s.bitIndex + 1#8, done := none, err := none, lastNow := now }

/-- Class OVF: BitOverflowError and the increment, no buffer write, Ready and Valid as they were
(42_edge_decoder.md R169). -/
def Obligations.ExcessFallSetsOverflowOnly : Prop :=
  ∀ (now : Counter) (s : State), s.edgeSub = true → s.lastNow ≤ now →
    40 ≤ s.bitIndex.toNat → s.bitIndex.toNat ≤ 253 →
    exec (.edgeFall now) s =
      .next { s with statusFlags := s.statusFlags ||| 0x80#8, bitIndex := s.bitIndex + 1#8,
                     done := none, err := none, lastNow := now }

/-- Class BIT1: `dataBuffer[bitIndex div 8] <- dataBuffer[bitIndex div 8] | (0x80 >> (bitIndex mod 8))`,
and no flag but those of completion (42_edge_decoder.md R165; setting by OR is decision D21, log 11). -/
def Obligations.OneBitFallSetsItsBit : Prop :=
  ∀ (now : Counter) (s : State), s.edgeSub = true → s.lastNow ≤ now → s.bitIndex.toNat < 40 →
    68 ≤ (now.setWidth 32 - s.lastDevicePullUpTime).toNat →
    (now.setWidth 32 - s.lastDevicePullUpTime).toNat ≤ 75 →
    ∃ t, exec (.edgeFall now) s = .next t ∧ FallFrame s t ∧ t.bitIndex = s.bitIndex + 1#8 ∧
      (∀ a : BufAddr, memRead a t =
        if a.val = s.bitIndex.toNat / 8 then memRead a s ||| (0x80#8 >>> (s.bitIndex.toNat % 8)) else memRead a s) ∧
      (s.bitIndex ≠ 39#8 ∨ flag .ready s = true → t.statusFlags = s.statusFlags ∧ t.done = none) ∧
      flag .bitReadError t = flag .bitReadError s ∧ flag .bitOverflowError t = flag .bitOverflowError s

/-- Class BIT0: no write to the buffer and no flag but those of completion; a bit that is already 1
stays 1 (42_edge_decoder.md R166; decision D21, log 11). -/
def Obligations.ZeroBitFallWritesNothing : Prop :=
  ∀ (now : Counter) (s : State), s.edgeSub = true → s.lastNow ≤ now → s.bitIndex.toNat < 40 →
    22 ≤ (now.setWidth 32 - s.lastDevicePullUpTime).toNat →
    (now.setWidth 32 - s.lastDevicePullUpTime).toNat ≤ 29 →
    ∃ t, exec (.edgeFall now) s = .next t ∧ FallFrame s t ∧ t.bitIndex = s.bitIndex + 1#8 ∧
      (∀ a : BufAddr, memRead a t = memRead a s) ∧
      (s.bitIndex ≠ 39#8 ∨ flag .ready s = true → t.statusFlags = s.statusFlags ∧ t.done = none) ∧
      flag .bitReadError t = flag .bitReadError s ∧ flag .bitOverflowError t = flag .bitOverflowError s

/-- Class ERR: BitReadError, no write to the buffer, decoding continues (42_edge_decoder.md R167). -/
def Obligations.MalformedFallSetsReadError : Prop :=
  ∀ (now : Counter) (s : State), s.edgeSub = true → s.lastNow ≤ now → s.bitIndex.toNat < 40 →
    ¬ (68 ≤ (now.setWidth 32 - s.lastDevicePullUpTime).toNat ∧
       (now.setWidth 32 - s.lastDevicePullUpTime).toNat ≤ 75) →
    ¬ (22 ≤ (now.setWidth 32 - s.lastDevicePullUpTime).toNat ∧
       (now.setWidth 32 - s.lastDevicePullUpTime).toNat ≤ 29) →
    ∃ t, exec (.edgeFall now) s = .next t ∧ FallFrame s t ∧ t.bitIndex = s.bitIndex + 1#8 ∧
      (∀ a : BufAddr, memRead a t = memRead a s) ∧ flag .bitReadError t = true ∧
      (s.bitIndex ≠ 39#8 ∨ flag .ready s = true → t.statusFlags = s.statusFlags ||| 0x40#8 ∧ t.done = none) ∧
      flag .bitOverflowError t = flag .bitOverflowError s

/-- Every falling edge advances the position by exactly 1, in all five classes (42_edge_decoder.md
R171). -/
def Obligations.EveryFallAdvancesByOne : Prop :=
  ∀ (now : Counter) (s : State), s.edgeSub = true → s.lastNow ≤ now →
    ∃ t, exec (.edgeFall now) s = .next t ∧ t.bitIndex = s.bitIndex + 1#8

/-- Completion: on reaching 40 for the first time PhaseDevice is cleared, Ready set, Valid set if the
checksum of the buffer as it then stands matches, and the notification raised if one is configured;
on no other falling edge does any of these happen (42_edge_decoder.md R172 to R174; "for the first time"
as Ready = 0 is decision D15, log 11). -/
def Obligations.CompletionOnFirstReachingForty : Prop :=
  ∀ (now : Counter) (s : State), s.edgeSub = true → s.lastNow ≤ now →
    ∃ t, exec (.edgeFall now) s = .next t ∧
      (s.bitIndex = 39#8 ∧ flag .ready s = false →
        t.bitIndex = 40#8 ∧ flag .phaseDevice t = false ∧ flag .ready t = true ∧
        flag .valid t =
          (flag .valid s || decide (memRead 0 t + memRead 1 t + memRead 2 t + memRead 3 t = memRead 4 t)) ∧
        t.done = (if s.cfg.cbEn then some s.cfg.ctx else none)) ∧
      (¬ (s.bitIndex = 39#8 ∧ flag .ready s = false) →
        flag .phaseDevice t = flag .phaseDevice s ∧ flag .ready t = flag .ready s ∧
        flag .valid t = flag .valid s ∧ t.done = none)

/-- The frame of EDGE_FALL, over every class: the registers it never writes, the flags it never writes,
and every byte but the one that holds the bit it resolves (42_edge_decoder.md R162, "Unchanged"). -/
def Obligations.FallLeavesTheRestAlone : Prop :=
  ∀ (now : Counter) (s : State), s.edgeSub = true → s.lastNow ≤ now →
    ∃ t, exec (.edgeFall now) s = .next t ∧ FallFrame s t ∧ t.lastNow = now ∧
      flag .phaseHost t = flag .phaseHost s ∧ flag .gpioRegisterError t = flag .gpioRegisterError s ∧
      flag .timerRegisterError t = flag .timerRegisterError s ∧
      ∀ a : BufAddr, ¬ (s.bitIndex.toNat < 40 ∧ a.val = s.bitIndex.toNat / 8) → memRead a t = memRead a s

/-- A rising and then a falling edge in the data-bit window: the decoder judges the true interval
between them, whatever the counter's high bits did, as long as it is below 2^32 microseconds
(30_encoding.md R105, decision D4; premise H7). -/
def Obligations.RiseThenFallJudgesTheTrueInterval : Prop :=
  ∀ (rise fall : Counter) (s : State), s.edgeSub = true → s.lastNow ≤ rise → ShortInterval rise fall →
    ∀ h : s.bitIndex.toNat < 40,
    ∃ t u, exec (.edgeRise rise) s = .next t ∧ exec (.edgeFall fall) t = .next u ∧
      (∀ n : BitAddr, bufferBit n u =
        (bufferBit n s ||
          decide (n = ⟨s.bitIndex.toNat, h⟩ ∧ 68 ≤ fall.toNat - rise.toNat ∧ fall.toNat - rise.toNat ≤ 75))) ∧
      flag .bitReadError u =
        (flag .bitReadError s ||
          decide (¬ (68 ≤ fall.toNat - rise.toNat ∧ fall.toNat - rise.toNat ≤ 75) ∧
                  ¬ (22 ≤ fall.toNat - rise.toNat ∧ fall.toNat - rise.toNat ≤ 29)))

/-! ## The buffer and the operands -/

/-- The bit-set primitive (20_memory.md R63): one byte is OR-ed with the mask, every other byte and
the other seven bits keep their values. -/
def Obligations.SetBitSetsOneBit : Prop :=
  ∀ (n : BitAddr) (s : State),
    (∀ a : BufAddr, memRead a (setBit n s) =
      if a.val = n.val / 8 then memRead a s ||| (0x80#8 >>> (n.val % 8)) else memRead a s) ∧
    (∀ (a : BufAddr) (j : Fin 8), (memRead a (setBit n s)).getLsbD (7 - j.val) =
      (decide (8 * a.val + j.val = n.val) || (memRead a s).getLsbD (7 - j.val)))

/-- The position classes (30_encoding.md R107; W = 8 is decision D2, log 7) and the two values for which
the wrap test holds. -/
def Obligations.PositionClassByWrapTest : Prop :=
  ∀ b : BitIdx,
    (∀ h : b.toNat < 40, posClass b = .data ⟨b.toNat, h⟩) ∧
    (40 ≤ b.toNat → b + 2#8 < b → posClass b = .sync) ∧
    (40 ≤ b.toNat → ¬ b + 2#8 < b → posClass b = .excess) ∧
    (b + 2#8 < b ↔ b = 254#8 ∨ b = 255#8)

/-- The symbol table's classes (30_encoding.md R103). Their effects are stated with EDGE_FALL. -/
def Obligations.SymbolTableByRow : Prop :=
  ∀ e : Stamp,
    (e.toNat ≤ 21 → symbol e = .err) ∧
    (22 ≤ e.toNat → e.toNat ≤ 29 → symbol e = .bit0) ∧
    (30 ≤ e.toNat → e.toNat ≤ 67 → symbol e = .err) ∧
    (68 ≤ e.toNat → e.toNat ≤ 75 → symbol e = .bit1) ∧
    (76 ≤ e.toNat → symbol e = .err)

/-- The flag positions and the error mask (30_encoding.md R99; the order is decision D5, log 8). -/
def Obligations.StatusWordPositions : Prop :=
  ∀ s : State,
    flag .ready s = s.statusFlags.getLsbD 0 ∧ flag .valid s = s.statusFlags.getLsbD 1 ∧
    flag .phaseHost s = s.statusFlags.getLsbD 2 ∧ flag .phaseDevice s = s.statusFlags.getLsbD 3 ∧
    flag .gpioRegisterError s = s.statusFlags.getLsbD 4 ∧ flag .timerRegisterError s = s.statusFlags.getLsbD 5 ∧
    flag .bitReadError s = s.statusFlags.getLsbD 6 ∧ flag .bitOverflowError s = s.statusFlags.getLsbD 7 ∧
    errMask = 0xF0#8

/-- The caller's read port (43_caller_interface.md R200). The fault outside the buffer is the model's
choice (log 19). -/
def Obligations.CallerReadsTheBuffer : Prop :=
  ∀ s : State, callerFlags s = s.statusFlags ∧ (∀ a : BufAddr, callerRead a.val s = .ok (memRead a s)) ∧
    (∀ a : Nat, 5 ≤ a → callerRead a s = .error (.noSuchAddress a))

/-! ## Rules about the whole machine -/

/-- The invariant, kept by every step from every state. Its clauses name the rules they rest on
(Safety.lean); the buffer's canonical form is the model's own (log 3). -/
def Obligations.EveryStepKeepsTheInvariant : Prop := ∀ s t : State, Inv s → step s = .next t → Inv t

/-- The invariant holds at power-on, whatever the unspecified registers hold (10_state.md R48; the free
values are the model's choice, logs 2 and 3). -/
def Obligations.PowerOnMeetsTheInvariant : Prop := Inv State.reset

/-- The phases of a read (10_state.md R39, which the spec marks as derived), kept by every step that
delivers no edge in the Host phase (premise H2, 70_reset_and_hazards.md R282). -/
def Obligations.EveryStepKeepsTheReadPhase : Prop :=
  ∀ s t : State, ReadPhase s →
    (∀ e rest i, s.trace = e :: rest → decode e = .ok i → HostPhaseQuiet i s) →
    step s = .next t → ReadPhase t

/-- START enters the Host phase from every state in which it is enabled (10_state.md R39, R272). -/
def Obligations.StartEntersTheHostPhase : Prop :=
  ∀ (gf tf : Bool) (now : Counter) (cfg : CommConfig) (s : State), s.alarmPending = false → s.lastNow ≤ now →
    ∃ t, exec (.start gf tf now cfg) s = .next t ∧ ReadPhase t ∧ flag .phaseHost t = true

/-- The counting law (42_edge_decoder.md R177): with k falling edges since START, `bitIndex` is
`add_W(2^W - 2, k)` and Ready is 1 exactly when k is at least 42. The spec marks the law as derived. -/
def Obligations.PositionCountsFallingEdges : Prop :=
  ∀ (gf tf : Bool) (now : Counter) (cfg : CommConfig) (s s0 t : State) (is : List Instr),
    exec (.start gf tf now cfg) s = .next s0 → withinRead is = true → runEvents is s0 = .next t →
    t.bitIndex = 254#8 + BitVec.ofNat 8 (fallIntervals is s.lastDevicePullUpTime).length ∧
      (flag .ready t = true ↔ 42 ≤ (fallIntervals is s.lastDevicePullUpTime).length)

/-- The pack law (20_memory.md R73), for every prefix of a read up to the last falling edge inside the
envelope (premise H8): bit j (from the top) of byte a is 1 exactly when falling edge number
8a + j + 2 of the read, counted from 0, measured 68 to 75; ERR and edges not yet seen count as 0. The
spec marks the law as derived; that it is stated of prefixes too is the model's. -/
def Obligations.BufferPacksTheMeasuredBits : Prop :=
  ∀ (gf tf : Bool) (now : Counter) (cfg : CommConfig) (s s0 t : State) (is : List Instr),
    exec (.start gf tf now cfg) s = .next s0 → withinRead is = true → runEvents is s0 = .next t →
    FewFalls is s.lastDevicePullUpTime →
    ∀ (a : BufAddr) (j : Fin 8),
      ((memRead a t).getLsbD (7 - j.val) = true ↔
        ∃ e, (fallIntervals is s.lastDevicePullUpTime)[8 * a.val + j.val + 2]? = some e ∧
          68 ≤ e.toNat ∧ e.toNat ≤ 75)

/-- Within a read a bit of the buffer that is 1 stays 1 (20_memory.md R67, which the spec marks as
derived). -/
def Obligations.BufferIsMonotoneWithinARead : Prop :=
  ∀ (i : Instr) (s t : State), isStart i = false → exec i s = .next t →
    ∀ a : BufAddr, memRead a s &&& memRead a t = memRead a s

/-- "Accumulating": within a read the error flags, Ready and Valid are only ever set, and PhaseHost is
never set (10_state.md R28). -/
def Obligations.FlagsAccumulateWithinARead : Prop :=
  ∀ (i : Instr) (s t : State), isStart i = false → exec i s = .next t →
    (∀ f : Flag, f ≠ .phaseHost → f ≠ .phaseDevice → flag f s = true → flag f t = true) ∧
    (flag .phaseHost t = true → flag .phaseHost s = true)

/-- Each error flag is raised exactly where its rule says, and cleared by START alone
(60_exceptions.md R221 to R224, R226). -/
def Obligations.ErrorFlagsRaisedExactly : Prop :=
  ∀ (i : Instr) (s t : State), exec i s = .next t →
    match i with
    | .start gf tf _ _ =>
      flag .gpioRegisterError t = gf ∧ flag .timerRegisterError t = tf ∧
        flag .bitReadError t = false ∧ flag .bitOverflowError t = false
    | .alarm _ => t.statusFlags &&& 0xF0#8 = s.statusFlags &&& 0xF0#8
    | .edgeRise _ => t.statusFlags = s.statusFlags
    | .edgeFall now =>
      flag .gpioRegisterError t = flag .gpioRegisterError s ∧
        flag .timerRegisterError t = flag .timerRegisterError s ∧
        flag .bitReadError t = (flag .bitReadError s ||
          decide (s.bitIndex.toNat < 40 ∧
            ¬ (68 ≤ (now.setWidth 32 - s.lastDevicePullUpTime).toNat ∧
               (now.setWidth 32 - s.lastDevicePullUpTime).toNat ≤ 75) ∧
            ¬ (22 ≤ (now.setWidth 32 - s.lastDevicePullUpTime).toNat ∧
               (now.setWidth 32 - s.lastDevicePullUpTime).toNat ≤ 29))) ∧
        flag .bitOverflowError t = (flag .bitOverflowError s ||
          decide (40 ≤ s.bitIndex.toNat ∧ s.bitIndex.toNat ≤ 253))

/-- Ready is terminal: once it is set, nothing but START clears it, Valid is not evaluated again and
no notification is raised, however many edges follow (10_state.md R31, R32; 42_edge_decoder.md R174,
R176). -/
def Obligations.ReadyIsTerminal : Prop :=
  ∀ (is : List Instr) (s t : State), flag .ready s = true → withinRead is = true → is ≠ [] →
    runEvents is s = .next t → flag .ready t = true ∧ flag .valid t = flag .valid s ∧ t.done = none

/-- Valid is set at the moment Ready is set and at no other, and only on a matching checksum
(10_state.md R32, 30_encoding.md R108). -/
def Obligations.ValidOnlyWithReadyAndChecksum : Prop :=
  ∀ (i : Instr) (s t : State), exec i s = .next t → flag .valid s = false → flag .valid t = true →
    flag .ready s = false ∧ flag .ready t = true ∧ s.bitIndex = 39#8 ∧
      (memRead 0 t).toNat + (memRead 1 t).toNat + (memRead 2 t).toNat + (memRead 3 t).toNat ≡
        (memRead 4 t).toNat [MOD 256]

/-- Every register has its one writer: who may change what (10_state.md R21 to R23, R41 to R44; 60_exceptions.md
R238). -/
def Obligations.EachRegisterHasItsWriter : Prop :=
  ∀ (i : Instr) (s t : State), exec i s = .next t →
    (isStart i = false → t.hostPullDownTime = s.hostPullDownTime ∧ t.cfg = s.cfg ∧ t.edgeSub = s.edgeSub ∧
      t.alarmVal = s.alarmVal ∧ (t.alarmPending = true → s.alarmPending = true)) ∧
    ((∀ now, i ≠ .alarm now) → t.hostPullUpTime = s.hostPullUpTime ∧ t.linePu = s.linePu) ∧
    ((∀ now, i ≠ .edgeRise now) → t.lastDevicePullUpTime = s.lastDevicePullUpTime) ∧
    (isEdge i = true → t.lineOe = s.lineOe ∧ t.lineOut = s.lineOut ∧ t.alarmPending = s.alarmPending) ∧
    (s.linePu = true → t.linePu = true) ∧
    ((∀ now, i ≠ .edgeFall now) → isStart i = false → t.bitIndex = s.bitIndex ∧
      ∀ a : BufAddr, memRead a t = memRead a s) ∧
    t.trace = s.trace
end

