-- ==== Sys2Proof/Laws/State.lean ====
section
/-! SUPPORT. One lemma per field per update of the state, each true by rfl, with what the update leaves
of the flags and of the buffer's bytes. -/

namespace Sys2Proof.Machine

variable (s : State)

/-! ## setFlag -/

@[simp] theorem setFlag_hostPullDownTime (f : Flag) : (setFlag f s).hostPullDownTime = s.hostPullDownTime := rfl
@[simp] theorem setFlag_hostPullUpTime (f : Flag) : (setFlag f s).hostPullUpTime = s.hostPullUpTime := rfl
@[simp] theorem setFlag_lastDevicePullUpTime (f : Flag) : (setFlag f s).lastDevicePullUpTime = s.lastDevicePullUpTime := rfl
@[simp] theorem setFlag_bitIndex (f : Flag) : (setFlag f s).bitIndex = s.bitIndex := rfl
@[simp] theorem setFlag_statusFlags (f : Flag) : (setFlag f s).statusFlags = s.statusFlags ||| f.mask := rfl
@[simp] theorem setFlag_dataBuffer (f : Flag) : (setFlag f s).dataBuffer = s.dataBuffer := rfl
@[simp] theorem setFlag_cfg (f : Flag) : (setFlag f s).cfg = s.cfg := rfl
@[simp] theorem setFlag_lineOe (f : Flag) : (setFlag f s).lineOe = s.lineOe := rfl
@[simp] theorem setFlag_lineOut (f : Flag) : (setFlag f s).lineOut = s.lineOut := rfl
@[simp] theorem setFlag_linePu (f : Flag) : (setFlag f s).linePu = s.linePu := rfl
@[simp] theorem setFlag_edgeSub (f : Flag) : (setFlag f s).edgeSub = s.edgeSub := rfl
@[simp] theorem setFlag_alarmVal (f : Flag) : (setFlag f s).alarmVal = s.alarmVal := rfl
@[simp] theorem setFlag_alarmPending (f : Flag) : (setFlag f s).alarmPending = s.alarmPending := rfl
@[simp] theorem setFlag_done (f : Flag) : (setFlag f s).done = s.done := rfl
@[simp] theorem setFlag_err (f : Flag) : (setFlag f s).err = s.err := rfl
@[simp] theorem setFlag_lastNow (f : Flag) : (setFlag f s).lastNow = s.lastNow := rfl
@[simp] theorem setFlag_trace (f : Flag) : (setFlag f s).trace = s.trace := rfl
@[simp] theorem setFlag_memRead (f : Flag) (x : BufAddr) : memRead x (setFlag f s) = memRead x s := rfl

/-! ## clearFlag -/

@[simp] theorem clearFlag_hostPullDownTime (f : Flag) : (clearFlag f s).hostPullDownTime = s.hostPullDownTime := rfl
@[simp] theorem clearFlag_hostPullUpTime (f : Flag) : (clearFlag f s).hostPullUpTime = s.hostPullUpTime := rfl
@[simp] theorem clearFlag_lastDevicePullUpTime (f : Flag) : (clearFlag f s).lastDevicePullUpTime = s.lastDevicePullUpTime := rfl
@[simp] theorem clearFlag_bitIndex (f : Flag) : (clearFlag f s).bitIndex = s.bitIndex := rfl
@[simp] theorem clearFlag_statusFlags (f : Flag) : (clearFlag f s).statusFlags = s.statusFlags &&& ~~~f.mask := rfl
@[simp] theorem clearFlag_dataBuffer (f : Flag) : (clearFlag f s).dataBuffer = s.dataBuffer := rfl
@[simp] theorem clearFlag_cfg (f : Flag) : (clearFlag f s).cfg = s.cfg := rfl
@[simp] theorem clearFlag_lineOe (f : Flag) : (clearFlag f s).lineOe = s.lineOe := rfl
@[simp] theorem clearFlag_lineOut (f : Flag) : (clearFlag f s).lineOut = s.lineOut := rfl
@[simp] theorem clearFlag_linePu (f : Flag) : (clearFlag f s).linePu = s.linePu := rfl
@[simp] theorem clearFlag_edgeSub (f : Flag) : (clearFlag f s).edgeSub = s.edgeSub := rfl
@[simp] theorem clearFlag_alarmVal (f : Flag) : (clearFlag f s).alarmVal = s.alarmVal := rfl
@[simp] theorem clearFlag_alarmPending (f : Flag) : (clearFlag f s).alarmPending = s.alarmPending := rfl
@[simp] theorem clearFlag_done (f : Flag) : (clearFlag f s).done = s.done := rfl
@[simp] theorem clearFlag_err (f : Flag) : (clearFlag f s).err = s.err := rfl
@[simp] theorem clearFlag_lastNow (f : Flag) : (clearFlag f s).lastNow = s.lastNow := rfl
@[simp] theorem clearFlag_trace (f : Flag) : (clearFlag f s).trace = s.trace := rfl
@[simp] theorem clearFlag_memRead (f : Flag) (x : BufAddr) : memRead x (clearFlag f s) = memRead x s := rfl

/-! ## recordError -/

@[simp] theorem recordError_hostPullDownTime (f : Flag) : (recordError f s).hostPullDownTime = s.hostPullDownTime := rfl
@[simp] theorem recordError_hostPullUpTime (f : Flag) : (recordError f s).hostPullUpTime = s.hostPullUpTime := rfl
@[simp] theorem recordError_lastDevicePullUpTime (f : Flag) : (recordError f s).lastDevicePullUpTime = s.lastDevicePullUpTime := rfl
@[simp] theorem recordError_bitIndex (f : Flag) : (recordError f s).bitIndex = s.bitIndex := rfl
@[simp] theorem recordError_statusFlags (f : Flag) : (recordError f s).statusFlags = s.statusFlags ||| f.mask := rfl
@[simp] theorem recordError_dataBuffer (f : Flag) : (recordError f s).dataBuffer = s.dataBuffer := rfl
@[simp] theorem recordError_cfg (f : Flag) : (recordError f s).cfg = s.cfg := rfl
@[simp] theorem recordError_lineOe (f : Flag) : (recordError f s).lineOe = s.lineOe := rfl
@[simp] theorem recordError_lineOut (f : Flag) : (recordError f s).lineOut = s.lineOut := rfl
@[simp] theorem recordError_linePu (f : Flag) : (recordError f s).linePu = s.linePu := rfl
@[simp] theorem recordError_edgeSub (f : Flag) : (recordError f s).edgeSub = s.edgeSub := rfl
@[simp] theorem recordError_alarmVal (f : Flag) : (recordError f s).alarmVal = s.alarmVal := rfl
@[simp] theorem recordError_alarmPending (f : Flag) : (recordError f s).alarmPending = s.alarmPending := rfl
@[simp] theorem recordError_done (f : Flag) : (recordError f s).done = s.done := rfl
@[simp] theorem recordError_err (f : Flag) : (recordError f s).err = s.err := rfl
@[simp] theorem recordError_lastNow (f : Flag) : (recordError f s).lastNow = s.lastNow := rfl
@[simp] theorem recordError_trace (f : Flag) : (recordError f s).trace = s.trace := rfl
@[simp] theorem recordError_memRead (f : Flag) (x : BufAddr) : memRead x (recordError f s) = memRead x s := rfl

/-! ## memWrite -/

@[simp] theorem memWrite_hostPullDownTime (a : BufAddr) (v : Byte) : (memWrite a v s).hostPullDownTime = s.hostPullDownTime := rfl
@[simp] theorem memWrite_hostPullUpTime (a : BufAddr) (v : Byte) : (memWrite a v s).hostPullUpTime = s.hostPullUpTime := rfl
@[simp] theorem memWrite_lastDevicePullUpTime (a : BufAddr) (v : Byte) : (memWrite a v s).lastDevicePullUpTime = s.lastDevicePullUpTime := rfl
@[simp] theorem memWrite_bitIndex (a : BufAddr) (v : Byte) : (memWrite a v s).bitIndex = s.bitIndex := rfl
@[simp] theorem memWrite_statusFlags (a : BufAddr) (v : Byte) : (memWrite a v s).statusFlags = s.statusFlags := rfl
@[simp] theorem memWrite_dataBuffer (a : BufAddr) (v : Byte) : (memWrite a v s).dataBuffer = Memory.insert a.val v s.dataBuffer := rfl
@[simp] theorem memWrite_cfg (a : BufAddr) (v : Byte) : (memWrite a v s).cfg = s.cfg := rfl
@[simp] theorem memWrite_lineOe (a : BufAddr) (v : Byte) : (memWrite a v s).lineOe = s.lineOe := rfl
@[simp] theorem memWrite_lineOut (a : BufAddr) (v : Byte) : (memWrite a v s).lineOut = s.lineOut := rfl
@[simp] theorem memWrite_linePu (a : BufAddr) (v : Byte) : (memWrite a v s).linePu = s.linePu := rfl
@[simp] theorem memWrite_edgeSub (a : BufAddr) (v : Byte) : (memWrite a v s).edgeSub = s.edgeSub := rfl
@[simp] theorem memWrite_alarmVal (a : BufAddr) (v : Byte) : (memWrite a v s).alarmVal = s.alarmVal := rfl
@[simp] theorem memWrite_alarmPending (a : BufAddr) (v : Byte) : (memWrite a v s).alarmPending = s.alarmPending := rfl
@[simp] theorem memWrite_done (a : BufAddr) (v : Byte) : (memWrite a v s).done = s.done := rfl
@[simp] theorem memWrite_err (a : BufAddr) (v : Byte) : (memWrite a v s).err = s.err := rfl
@[simp] theorem memWrite_lastNow (a : BufAddr) (v : Byte) : (memWrite a v s).lastNow = s.lastNow := rfl
@[simp] theorem memWrite_trace (a : BufAddr) (v : Byte) : (memWrite a v s).trace = s.trace := rfl
@[simp] theorem memWrite_flag (a : BufAddr) (v : Byte) (g : Flag) : flag g (memWrite a v s) = flag g s := rfl

/-! ## edgeDeregister -/

@[simp] theorem edgeDeregister_hostPullDownTime : (edgeDeregister s).hostPullDownTime = s.hostPullDownTime := rfl
@[simp] theorem edgeDeregister_hostPullUpTime : (edgeDeregister s).hostPullUpTime = s.hostPullUpTime := rfl
@[simp] theorem edgeDeregister_lastDevicePullUpTime : (edgeDeregister s).lastDevicePullUpTime = s.lastDevicePullUpTime := rfl
@[simp] theorem edgeDeregister_bitIndex : (edgeDeregister s).bitIndex = s.bitIndex := rfl
@[simp] theorem edgeDeregister_statusFlags : (edgeDeregister s).statusFlags = s.statusFlags := rfl
@[simp] theorem edgeDeregister_dataBuffer : (edgeDeregister s).dataBuffer = s.dataBuffer := rfl
@[simp] theorem edgeDeregister_cfg : (edgeDeregister s).cfg = s.cfg := rfl
@[simp] theorem edgeDeregister_lineOe : (edgeDeregister s).lineOe = s.lineOe := rfl
@[simp] theorem edgeDeregister_lineOut : (edgeDeregister s).lineOut = s.lineOut := rfl
@[simp] theorem edgeDeregister_linePu : (edgeDeregister s).linePu = s.linePu := rfl
@[simp] theorem edgeDeregister_edgeSub : (edgeDeregister s).edgeSub = false := rfl
@[simp] theorem edgeDeregister_alarmVal : (edgeDeregister s).alarmVal = s.alarmVal := rfl
@[simp] theorem edgeDeregister_alarmPending : (edgeDeregister s).alarmPending = s.alarmPending := rfl
@[simp] theorem edgeDeregister_done : (edgeDeregister s).done = s.done := rfl
@[simp] theorem edgeDeregister_err : (edgeDeregister s).err = s.err := rfl
@[simp] theorem edgeDeregister_lastNow : (edgeDeregister s).lastNow = s.lastNow := rfl
@[simp] theorem edgeDeregister_trace : (edgeDeregister s).trace = s.trace := rfl
@[simp] theorem edgeDeregister_flag (g : Flag) : flag g (edgeDeregister s) = flag g s := rfl
@[simp] theorem edgeDeregister_memRead (x : BufAddr) : memRead x (edgeDeregister s) = memRead x s := rfl

/-! ## setDirection -/

@[simp] theorem setDirection_hostPullDownTime (b : Bool) : (setDirection b s).hostPullDownTime = s.hostPullDownTime := rfl
@[simp] theorem setDirection_hostPullUpTime (b : Bool) : (setDirection b s).hostPullUpTime = s.hostPullUpTime := rfl
@[simp] theorem setDirection_lastDevicePullUpTime (b : Bool) : (setDirection b s).lastDevicePullUpTime = s.lastDevicePullUpTime := rfl
@[simp] theorem setDirection_bitIndex (b : Bool) : (setDirection b s).bitIndex = s.bitIndex := rfl
@[simp] theorem setDirection_statusFlags (b : Bool) : (setDirection b s).statusFlags = s.statusFlags := rfl
@[simp] theorem setDirection_dataBuffer (b : Bool) : (setDirection b s).dataBuffer = s.dataBuffer := rfl
@[simp] theorem setDirection_cfg (b : Bool) : (setDirection b s).cfg = s.cfg := rfl
@[simp] theorem setDirection_lineOe (b : Bool) : (setDirection b s).lineOe = b := rfl
@[simp] theorem setDirection_lineOut (b : Bool) : (setDirection b s).lineOut = s.lineOut := rfl
@[simp] theorem setDirection_linePu (b : Bool) : (setDirection b s).linePu = s.linePu := rfl
@[simp] theorem setDirection_edgeSub (b : Bool) : (setDirection b s).edgeSub = s.edgeSub := rfl
@[simp] theorem setDirection_alarmVal (b : Bool) : (setDirection b s).alarmVal = s.alarmVal := rfl
@[simp] theorem setDirection_alarmPending (b : Bool) : (setDirection b s).alarmPending = s.alarmPending := rfl
@[simp] theorem setDirection_done (b : Bool) : (setDirection b s).done = s.done := rfl
@[simp] theorem setDirection_err (b : Bool) : (setDirection b s).err = s.err := rfl
@[simp] theorem setDirection_lastNow (b : Bool) : (setDirection b s).lastNow = s.lastNow := rfl
@[simp] theorem setDirection_trace (b : Bool) : (setDirection b s).trace = s.trace := rfl
@[simp] theorem setDirection_flag (b : Bool) (g : Flag) : flag g (setDirection b s) = flag g s := rfl
@[simp] theorem setDirection_memRead (b : Bool) (x : BufAddr) : memRead x (setDirection b s) = memRead x s := rfl

/-! ## setLevel -/

@[simp] theorem setLevel_hostPullDownTime (b : Bool) : (setLevel b s).hostPullDownTime = s.hostPullDownTime := rfl
@[simp] theorem setLevel_hostPullUpTime (b : Bool) : (setLevel b s).hostPullUpTime = s.hostPullUpTime := rfl
@[simp] theorem setLevel_lastDevicePullUpTime (b : Bool) : (setLevel b s).lastDevicePullUpTime = s.lastDevicePullUpTime := rfl
@[simp] theorem setLevel_bitIndex (b : Bool) : (setLevel b s).bitIndex = s.bitIndex := rfl
@[simp] theorem setLevel_statusFlags (b : Bool) : (setLevel b s).statusFlags = s.statusFlags := rfl
@[simp] theorem setLevel_dataBuffer (b : Bool) : (setLevel b s).dataBuffer = s.dataBuffer := rfl
@[simp] theorem setLevel_cfg (b : Bool) : (setLevel b s).cfg = s.cfg := rfl
@[simp] theorem setLevel_lineOe (b : Bool) : (setLevel b s).lineOe = s.lineOe := rfl
@[simp] theorem setLevel_lineOut (b : Bool) : (setLevel b s).lineOut = b := rfl
@[simp] theorem setLevel_linePu (b : Bool) : (setLevel b s).linePu = s.linePu := rfl
@[simp] theorem setLevel_edgeSub (b : Bool) : (setLevel b s).edgeSub = s.edgeSub := rfl
@[simp] theorem setLevel_alarmVal (b : Bool) : (setLevel b s).alarmVal = s.alarmVal := rfl
@[simp] theorem setLevel_alarmPending (b : Bool) : (setLevel b s).alarmPending = s.alarmPending := rfl
@[simp] theorem setLevel_done (b : Bool) : (setLevel b s).done = s.done := rfl
@[simp] theorem setLevel_err (b : Bool) : (setLevel b s).err = s.err := rfl
@[simp] theorem setLevel_lastNow (b : Bool) : (setLevel b s).lastNow = s.lastNow := rfl
@[simp] theorem setLevel_trace (b : Bool) : (setLevel b s).trace = s.trace := rfl
@[simp] theorem setLevel_flag (b : Bool) (g : Flag) : flag g (setLevel b s) = flag g s := rfl
@[simp] theorem setLevel_memRead (b : Bool) (x : BufAddr) : memRead x (setLevel b s) = memRead x s := rfl

/-! ## enablePullup -/

@[simp] theorem enablePullup_hostPullDownTime : (enablePullup s).hostPullDownTime = s.hostPullDownTime := rfl
@[simp] theorem enablePullup_hostPullUpTime : (enablePullup s).hostPullUpTime = s.hostPullUpTime := rfl
@[simp] theorem enablePullup_lastDevicePullUpTime : (enablePullup s).lastDevicePullUpTime = s.lastDevicePullUpTime := rfl
@[simp] theorem enablePullup_bitIndex : (enablePullup s).bitIndex = s.bitIndex := rfl
@[simp] theorem enablePullup_statusFlags : (enablePullup s).statusFlags = s.statusFlags := rfl
@[simp] theorem enablePullup_dataBuffer : (enablePullup s).dataBuffer = s.dataBuffer := rfl
@[simp] theorem enablePullup_cfg : (enablePullup s).cfg = s.cfg := rfl
@[simp] theorem enablePullup_lineOe : (enablePullup s).lineOe = s.lineOe := rfl
@[simp] theorem enablePullup_lineOut : (enablePullup s).lineOut = s.lineOut := rfl
@[simp] theorem enablePullup_linePu : (enablePullup s).linePu = true := rfl
@[simp] theorem enablePullup_edgeSub : (enablePullup s).edgeSub = s.edgeSub := rfl
@[simp] theorem enablePullup_alarmVal : (enablePullup s).alarmVal = s.alarmVal := rfl
@[simp] theorem enablePullup_alarmPending : (enablePullup s).alarmPending = s.alarmPending := rfl
@[simp] theorem enablePullup_done : (enablePullup s).done = s.done := rfl
@[simp] theorem enablePullup_err : (enablePullup s).err = s.err := rfl
@[simp] theorem enablePullup_lastNow : (enablePullup s).lastNow = s.lastNow := rfl
@[simp] theorem enablePullup_trace : (enablePullup s).trace = s.trace := rfl
@[simp] theorem enablePullup_flag (g : Flag) : flag g (enablePullup s) = flag g s := rfl
@[simp] theorem enablePullup_memRead (x : BufAddr) : memRead x (enablePullup s) = memRead x s := rfl

/-! ## setAlarmValue -/

@[simp] theorem setAlarmValue_hostPullDownTime (v : Counter) : (setAlarmValue v s).hostPullDownTime = s.hostPullDownTime := rfl
@[simp] theorem setAlarmValue_hostPullUpTime (v : Counter) : (setAlarmValue v s).hostPullUpTime = s.hostPullUpTime := rfl
@[simp] theorem setAlarmValue_lastDevicePullUpTime (v : Counter) : (setAlarmValue v s).lastDevicePullUpTime = s.lastDevicePullUpTime := rfl
@[simp] theorem setAlarmValue_bitIndex (v : Counter) : (setAlarmValue v s).bitIndex = s.bitIndex := rfl
@[simp] theorem setAlarmValue_statusFlags (v : Counter) : (setAlarmValue v s).statusFlags = s.statusFlags := rfl
@[simp] theorem setAlarmValue_dataBuffer (v : Counter) : (setAlarmValue v s).dataBuffer = s.dataBuffer := rfl
@[simp] theorem setAlarmValue_cfg (v : Counter) : (setAlarmValue v s).cfg = s.cfg := rfl
@[simp] theorem setAlarmValue_lineOe (v : Counter) : (setAlarmValue v s).lineOe = s.lineOe := rfl
@[simp] theorem setAlarmValue_lineOut (v : Counter) : (setAlarmValue v s).lineOut = s.lineOut := rfl
@[simp] theorem setAlarmValue_linePu (v : Counter) : (setAlarmValue v s).linePu = s.linePu := rfl
@[simp] theorem setAlarmValue_edgeSub (v : Counter) : (setAlarmValue v s).edgeSub = s.edgeSub := rfl
@[simp] theorem setAlarmValue_alarmVal (v : Counter) : (setAlarmValue v s).alarmVal = v := rfl
@[simp] theorem setAlarmValue_alarmPending (v : Counter) : (setAlarmValue v s).alarmPending = s.alarmPending := rfl
@[simp] theorem setAlarmValue_done (v : Counter) : (setAlarmValue v s).done = s.done := rfl
@[simp] theorem setAlarmValue_err (v : Counter) : (setAlarmValue v s).err = s.err := rfl
@[simp] theorem setAlarmValue_lastNow (v : Counter) : (setAlarmValue v s).lastNow = s.lastNow := rfl
@[simp] theorem setAlarmValue_trace (v : Counter) : (setAlarmValue v s).trace = s.trace := rfl
@[simp] theorem setAlarmValue_flag (v : Counter) (g : Flag) : flag g (setAlarmValue v s) = flag g s := rfl
@[simp] theorem setAlarmValue_memRead (v : Counter) (x : BufAddr) : memRead x (setAlarmValue v s) = memRead x s := rfl

/-! ## disarmAlarm -/

@[simp] theorem disarmAlarm_hostPullDownTime : (disarmAlarm s).hostPullDownTime = s.hostPullDownTime := rfl
@[simp] theorem disarmAlarm_hostPullUpTime : (disarmAlarm s).hostPullUpTime = s.hostPullUpTime := rfl
@[simp] theorem disarmAlarm_lastDevicePullUpTime : (disarmAlarm s).lastDevicePullUpTime = s.lastDevicePullUpTime := rfl
@[simp] theorem disarmAlarm_bitIndex : (disarmAlarm s).bitIndex = s.bitIndex := rfl
@[simp] theorem disarmAlarm_statusFlags : (disarmAlarm s).statusFlags = s.statusFlags := rfl
@[simp] theorem disarmAlarm_dataBuffer : (disarmAlarm s).dataBuffer = s.dataBuffer := rfl
@[simp] theorem disarmAlarm_cfg : (disarmAlarm s).cfg = s.cfg := rfl
@[simp] theorem disarmAlarm_lineOe : (disarmAlarm s).lineOe = s.lineOe := rfl
@[simp] theorem disarmAlarm_lineOut : (disarmAlarm s).lineOut = s.lineOut := rfl
@[simp] theorem disarmAlarm_linePu : (disarmAlarm s).linePu = s.linePu := rfl
@[simp] theorem disarmAlarm_edgeSub : (disarmAlarm s).edgeSub = s.edgeSub := rfl
@[simp] theorem disarmAlarm_alarmVal : (disarmAlarm s).alarmVal = s.alarmVal := rfl
@[simp] theorem disarmAlarm_alarmPending : (disarmAlarm s).alarmPending = false := rfl
@[simp] theorem disarmAlarm_done : (disarmAlarm s).done = s.done := rfl
@[simp] theorem disarmAlarm_err : (disarmAlarm s).err = s.err := rfl
@[simp] theorem disarmAlarm_lastNow : (disarmAlarm s).lastNow = s.lastNow := rfl
@[simp] theorem disarmAlarm_trace : (disarmAlarm s).trace = s.trace := rfl
@[simp] theorem disarmAlarm_flag (g : Flag) : flag g (disarmAlarm s) = flag g s := rfl
@[simp] theorem disarmAlarm_memRead (x : BufAddr) : memRead x (disarmAlarm s) = memRead x s := rfl

/-! ## stampPullDown -/

@[simp] theorem stampPullDown_hostPullDownTime (n : Counter) : (stampPullDown n s).hostPullDownTime = stampOf n := rfl
@[simp] theorem stampPullDown_hostPullUpTime (n : Counter) : (stampPullDown n s).hostPullUpTime = s.hostPullUpTime := rfl
@[simp] theorem stampPullDown_lastDevicePullUpTime (n : Counter) : (stampPullDown n s).lastDevicePullUpTime = s.lastDevicePullUpTime := rfl
@[simp] theorem stampPullDown_bitIndex (n : Counter) : (stampPullDown n s).bitIndex = s.bitIndex := rfl
@[simp] theorem stampPullDown_statusFlags (n : Counter) : (stampPullDown n s).statusFlags = s.statusFlags := rfl
@[simp] theorem stampPullDown_dataBuffer (n : Counter) : (stampPullDown n s).dataBuffer = s.dataBuffer := rfl
@[simp] theorem stampPullDown_cfg (n : Counter) : (stampPullDown n s).cfg = s.cfg := rfl
@[simp] theorem stampPullDown_lineOe (n : Counter) : (stampPullDown n s).lineOe = s.lineOe := rfl
@[simp] theorem stampPullDown_lineOut (n : Counter) : (stampPullDown n s).lineOut = s.lineOut := rfl
@[simp] theorem stampPullDown_linePu (n : Counter) : (stampPullDown n s).linePu = s.linePu := rfl
@[simp] theorem stampPullDown_edgeSub (n : Counter) : (stampPullDown n s).edgeSub = s.edgeSub := rfl
@[simp] theorem stampPullDown_alarmVal (n : Counter) : (stampPullDown n s).alarmVal = s.alarmVal := rfl
@[simp] theorem stampPullDown_alarmPending (n : Counter) : (stampPullDown n s).alarmPending = s.alarmPending := rfl
@[simp] theorem stampPullDown_done (n : Counter) : (stampPullDown n s).done = s.done := rfl
@[simp] theorem stampPullDown_err (n : Counter) : (stampPullDown n s).err = s.err := rfl
@[simp] theorem stampPullDown_lastNow (n : Counter) : (stampPullDown n s).lastNow = s.lastNow := rfl
@[simp] theorem stampPullDown_trace (n : Counter) : (stampPullDown n s).trace = s.trace := rfl
@[simp] theorem stampPullDown_flag (n : Counter) (g : Flag) : flag g (stampPullDown n s) = flag g s := rfl
@[simp] theorem stampPullDown_memRead (n : Counter) (x : BufAddr) : memRead x (stampPullDown n s) = memRead x s := rfl

/-! ## stampPullUp -/

@[simp] theorem stampPullUp_hostPullDownTime (n : Counter) : (stampPullUp n s).hostPullDownTime = s.hostPullDownTime := rfl
@[simp] theorem stampPullUp_hostPullUpTime (n : Counter) : (stampPullUp n s).hostPullUpTime = stampOf n := rfl
@[simp] theorem stampPullUp_lastDevicePullUpTime (n : Counter) : (stampPullUp n s).lastDevicePullUpTime = s.lastDevicePullUpTime := rfl
@[simp] theorem stampPullUp_bitIndex (n : Counter) : (stampPullUp n s).bitIndex = s.bitIndex := rfl
@[simp] theorem stampPullUp_statusFlags (n : Counter) : (stampPullUp n s).statusFlags = s.statusFlags := rfl
@[simp] theorem stampPullUp_dataBuffer (n : Counter) : (stampPullUp n s).dataBuffer = s.dataBuffer := rfl
@[simp] theorem stampPullUp_cfg (n : Counter) : (stampPullUp n s).cfg = s.cfg := rfl
@[simp] theorem stampPullUp_lineOe (n : Counter) : (stampPullUp n s).lineOe = s.lineOe := rfl
@[simp] theorem stampPullUp_lineOut (n : Counter) : (stampPullUp n s).lineOut = s.lineOut := rfl
@[simp] theorem stampPullUp_linePu (n : Counter) : (stampPullUp n s).linePu = s.linePu := rfl
@[simp] theorem stampPullUp_edgeSub (n : Counter) : (stampPullUp n s).edgeSub = s.edgeSub := rfl
@[simp] theorem stampPullUp_alarmVal (n : Counter) : (stampPullUp n s).alarmVal = s.alarmVal := rfl
@[simp] theorem stampPullUp_alarmPending (n : Counter) : (stampPullUp n s).alarmPending = s.alarmPending := rfl
@[simp] theorem stampPullUp_done (n : Counter) : (stampPullUp n s).done = s.done := rfl
@[simp] theorem stampPullUp_err (n : Counter) : (stampPullUp n s).err = s.err := rfl
@[simp] theorem stampPullUp_lastNow (n : Counter) : (stampPullUp n s).lastNow = s.lastNow := rfl
@[simp] theorem stampPullUp_trace (n : Counter) : (stampPullUp n s).trace = s.trace := rfl
@[simp] theorem stampPullUp_flag (n : Counter) (g : Flag) : flag g (stampPullUp n s) = flag g s := rfl
@[simp] theorem stampPullUp_memRead (n : Counter) (x : BufAddr) : memRead x (stampPullUp n s) = memRead x s := rfl

/-! ## stampRise -/

@[simp] theorem stampRise_hostPullDownTime (n : Counter) : (stampRise n s).hostPullDownTime = s.hostPullDownTime := rfl
@[simp] theorem stampRise_hostPullUpTime (n : Counter) : (stampRise n s).hostPullUpTime = s.hostPullUpTime := rfl
@[simp] theorem stampRise_lastDevicePullUpTime (n : Counter) : (stampRise n s).lastDevicePullUpTime = stampOf n := rfl
@[simp] theorem stampRise_bitIndex (n : Counter) : (stampRise n s).bitIndex = s.bitIndex := rfl
@[simp] theorem stampRise_statusFlags (n : Counter) : (stampRise n s).statusFlags = s.statusFlags := rfl
@[simp] theorem stampRise_dataBuffer (n : Counter) : (stampRise n s).dataBuffer = s.dataBuffer := rfl
@[simp] theorem stampRise_cfg (n : Counter) : (stampRise n s).cfg = s.cfg := rfl
@[simp] theorem stampRise_lineOe (n : Counter) : (stampRise n s).lineOe = s.lineOe := rfl
@[simp] theorem stampRise_lineOut (n : Counter) : (stampRise n s).lineOut = s.lineOut := rfl
@[simp] theorem stampRise_linePu (n : Counter) : (stampRise n s).linePu = s.linePu := rfl
@[simp] theorem stampRise_edgeSub (n : Counter) : (stampRise n s).edgeSub = s.edgeSub := rfl
@[simp] theorem stampRise_alarmVal (n : Counter) : (stampRise n s).alarmVal = s.alarmVal := rfl
@[simp] theorem stampRise_alarmPending (n : Counter) : (stampRise n s).alarmPending = s.alarmPending := rfl
@[simp] theorem stampRise_done (n : Counter) : (stampRise n s).done = s.done := rfl
@[simp] theorem stampRise_err (n : Counter) : (stampRise n s).err = s.err := rfl
@[simp] theorem stampRise_lastNow (n : Counter) : (stampRise n s).lastNow = s.lastNow := rfl
@[simp] theorem stampRise_trace (n : Counter) : (stampRise n s).trace = s.trace := rfl
@[simp] theorem stampRise_flag (n : Counter) (g : Flag) : flag g (stampRise n s) = flag g s := rfl
@[simp] theorem stampRise_memRead (n : Counter) (x : BufAddr) : memRead x (stampRise n s) = memRead x s := rfl

/-! ## advance -/

@[simp] theorem advance_hostPullDownTime : (advance s).hostPullDownTime = s.hostPullDownTime := rfl
@[simp] theorem advance_hostPullUpTime : (advance s).hostPullUpTime = s.hostPullUpTime := rfl
@[simp] theorem advance_lastDevicePullUpTime : (advance s).lastDevicePullUpTime = s.lastDevicePullUpTime := rfl
@[simp] theorem advance_bitIndex : (advance s).bitIndex = addN s.bitIndex 1#8 := rfl
@[simp] theorem advance_statusFlags : (advance s).statusFlags = s.statusFlags := rfl
@[simp] theorem advance_dataBuffer : (advance s).dataBuffer = s.dataBuffer := rfl
@[simp] theorem advance_cfg : (advance s).cfg = s.cfg := rfl
@[simp] theorem advance_lineOe : (advance s).lineOe = s.lineOe := rfl
@[simp] theorem advance_lineOut : (advance s).lineOut = s.lineOut := rfl
@[simp] theorem advance_linePu : (advance s).linePu = s.linePu := rfl
@[simp] theorem advance_edgeSub : (advance s).edgeSub = s.edgeSub := rfl
@[simp] theorem advance_alarmVal : (advance s).alarmVal = s.alarmVal := rfl
@[simp] theorem advance_alarmPending : (advance s).alarmPending = s.alarmPending := rfl
@[simp] theorem advance_done : (advance s).done = s.done := rfl
@[simp] theorem advance_err : (advance s).err = s.err := rfl
@[simp] theorem advance_lastNow : (advance s).lastNow = s.lastNow := rfl
@[simp] theorem advance_trace : (advance s).trace = s.trace := rfl
@[simp] theorem advance_flag (g : Flag) : flag g (advance s) = flag g s := rfl
@[simp] theorem advance_memRead (x : BufAddr) : memRead x (advance s) = memRead x s := rfl

/-! ## takeConfig -/

@[simp] theorem takeConfig_hostPullDownTime (c : CommConfig) : (takeConfig c s).hostPullDownTime = s.hostPullDownTime := rfl
@[simp] theorem takeConfig_hostPullUpTime (c : CommConfig) : (takeConfig c s).hostPullUpTime = s.hostPullUpTime := rfl
@[simp] theorem takeConfig_lastDevicePullUpTime (c : CommConfig) : (takeConfig c s).lastDevicePullUpTime = s.lastDevicePullUpTime := rfl
@[simp] theorem takeConfig_bitIndex (c : CommConfig) : (takeConfig c s).bitIndex = s.bitIndex := rfl
@[simp] theorem takeConfig_statusFlags (c : CommConfig) : (takeConfig c s).statusFlags = s.statusFlags := rfl
@[simp] theorem takeConfig_dataBuffer (c : CommConfig) : (takeConfig c s).dataBuffer = s.dataBuffer := rfl
@[simp] theorem takeConfig_cfg (c : CommConfig) : (takeConfig c s).cfg = c := rfl
@[simp] theorem takeConfig_lineOe (c : CommConfig) : (takeConfig c s).lineOe = s.lineOe := rfl
@[simp] theorem takeConfig_lineOut (c : CommConfig) : (takeConfig c s).lineOut = s.lineOut := rfl
@[simp] theorem takeConfig_linePu (c : CommConfig) : (takeConfig c s).linePu = s.linePu := rfl
@[simp] theorem takeConfig_edgeSub (c : CommConfig) : (takeConfig c s).edgeSub = s.edgeSub := rfl
@[simp] theorem takeConfig_alarmVal (c : CommConfig) : (takeConfig c s).alarmVal = s.alarmVal := rfl
@[simp] theorem takeConfig_alarmPending (c : CommConfig) : (takeConfig c s).alarmPending = s.alarmPending := rfl
@[simp] theorem takeConfig_done (c : CommConfig) : (takeConfig c s).done = s.done := rfl
@[simp] theorem takeConfig_err (c : CommConfig) : (takeConfig c s).err = s.err := rfl
@[simp] theorem takeConfig_lastNow (c : CommConfig) : (takeConfig c s).lastNow = s.lastNow := rfl
@[simp] theorem takeConfig_trace (c : CommConfig) : (takeConfig c s).trace = s.trace := rfl
@[simp] theorem takeConfig_flag (c : CommConfig) (g : Flag) : flag g (takeConfig c s) = flag g s := rfl
@[simp] theorem takeConfig_memRead (c : CommConfig) (x : BufAddr) : memRead x (takeConfig c s) = memRead x s := rfl

/-! ## returnErrorMask -/

@[simp] theorem returnErrorMask_hostPullDownTime : (returnErrorMask s).hostPullDownTime = s.hostPullDownTime := rfl
@[simp] theorem returnErrorMask_hostPullUpTime : (returnErrorMask s).hostPullUpTime = s.hostPullUpTime := rfl
@[simp] theorem returnErrorMask_lastDevicePullUpTime : (returnErrorMask s).lastDevicePullUpTime = s.lastDevicePullUpTime := rfl
@[simp] theorem returnErrorMask_bitIndex : (returnErrorMask s).bitIndex = s.bitIndex := rfl
@[simp] theorem returnErrorMask_statusFlags : (returnErrorMask s).statusFlags = s.statusFlags := rfl
@[simp] theorem returnErrorMask_dataBuffer : (returnErrorMask s).dataBuffer = s.dataBuffer := rfl
@[simp] theorem returnErrorMask_cfg : (returnErrorMask s).cfg = s.cfg := rfl
@[simp] theorem returnErrorMask_lineOe : (returnErrorMask s).lineOe = s.lineOe := rfl
@[simp] theorem returnErrorMask_lineOut : (returnErrorMask s).lineOut = s.lineOut := rfl
@[simp] theorem returnErrorMask_linePu : (returnErrorMask s).linePu = s.linePu := rfl
@[simp] theorem returnErrorMask_edgeSub : (returnErrorMask s).edgeSub = s.edgeSub := rfl
@[simp] theorem returnErrorMask_alarmVal : (returnErrorMask s).alarmVal = s.alarmVal := rfl
@[simp] theorem returnErrorMask_alarmPending : (returnErrorMask s).alarmPending = s.alarmPending := rfl
@[simp] theorem returnErrorMask_done : (returnErrorMask s).done = s.done := rfl
@[simp] theorem returnErrorMask_err : (returnErrorMask s).err = some (s.statusFlags &&& errMask) := rfl
@[simp] theorem returnErrorMask_lastNow : (returnErrorMask s).lastNow = s.lastNow := rfl
@[simp] theorem returnErrorMask_trace : (returnErrorMask s).trace = s.trace := rfl
@[simp] theorem returnErrorMask_flag (g : Flag) : flag g (returnErrorMask s) = flag g s := rfl
@[simp] theorem returnErrorMask_memRead (x : BufAddr) : memRead x (returnErrorMask s) = memRead x s := rfl

/-! ## beginEvent -/

@[simp] theorem beginEvent_hostPullDownTime (n : Counter) : (beginEvent n s).hostPullDownTime = s.hostPullDownTime := rfl
@[simp] theorem beginEvent_hostPullUpTime (n : Counter) : (beginEvent n s).hostPullUpTime = s.hostPullUpTime := rfl
@[simp] theorem beginEvent_lastDevicePullUpTime (n : Counter) : (beginEvent n s).lastDevicePullUpTime = s.lastDevicePullUpTime := rfl
@[simp] theorem beginEvent_bitIndex (n : Counter) : (beginEvent n s).bitIndex = s.bitIndex := rfl
@[simp] theorem beginEvent_statusFlags (n : Counter) : (beginEvent n s).statusFlags = s.statusFlags := rfl
@[simp] theorem beginEvent_dataBuffer (n : Counter) : (beginEvent n s).dataBuffer = s.dataBuffer := rfl
@[simp] theorem beginEvent_cfg (n : Counter) : (beginEvent n s).cfg = s.cfg := rfl
@[simp] theorem beginEvent_lineOe (n : Counter) : (beginEvent n s).lineOe = s.lineOe := rfl
@[simp] theorem beginEvent_lineOut (n : Counter) : (beginEvent n s).lineOut = s.lineOut := rfl
@[simp] theorem beginEvent_linePu (n : Counter) : (beginEvent n s).linePu = s.linePu := rfl
@[simp] theorem beginEvent_edgeSub (n : Counter) : (beginEvent n s).edgeSub = s.edgeSub := rfl
@[simp] theorem beginEvent_alarmVal (n : Counter) : (beginEvent n s).alarmVal = s.alarmVal := rfl
@[simp] theorem beginEvent_alarmPending (n : Counter) : (beginEvent n s).alarmPending = s.alarmPending := rfl
@[simp] theorem beginEvent_done (n : Counter) : (beginEvent n s).done = none := rfl
@[simp] theorem beginEvent_err (n : Counter) : (beginEvent n s).err = none := rfl
@[simp] theorem beginEvent_lastNow (n : Counter) : (beginEvent n s).lastNow = n := rfl
@[simp] theorem beginEvent_trace (n : Counter) : (beginEvent n s).trace = s.trace := rfl
@[simp] theorem beginEvent_flag (n : Counter) (g : Flag) : flag g (beginEvent n s) = flag g s := rfl
@[simp] theorem beginEvent_memRead (n : Counter) (x : BufAddr) : memRead x (beginEvent n s) = memRead x s := rfl

end Sys2Proof.Machine
end

