-- ==== Sys2Proof/Laws/Flags.lean ====
section
/-! SUPPORT. The status word: set and clear act on one flag and leave the other seven. -/

namespace Sys2Proof.Machine

/-- The bits of a mask. -/
theorem mask_getLsbD (f g : Flag) : f.mask.getLsbD g.pos = decide (g = f) := by
  cases f <;> cases g <;> decide

/-- A flag's position lies in the word. -/
theorem pos_lt (f : Flag) : f.pos < 8 := by cases f <;> decide

/-- `set F` sets F and no other flag. -/
@[simp] theorem flag_setFlag (f g : Flag) (s : State) :
    flag g (setFlag f s) = (decide (g = f) || flag g s) := by
  simp [flag, mask_getLsbD, Bool.or_comm]

/-- Recording an error sets its flag and no other. -/
@[simp] theorem flag_recordError (f g : Flag) (s : State) :
    flag g (recordError f s) = (decide (g = f) || flag g s) := flag_setFlag f g s

/-- `clear F` clears F and no other flag. -/
@[simp] theorem flag_clearFlag (f g : Flag) (s : State) :
    flag g (clearFlag f s) = (!decide (g = f) && flag g s) := by
  simp only [flag, clearFlag, BitVec.getLsbD_and, BitVec.getLsbD_not, pos_lt, decide_true, Bool.true_and,
    mask_getLsbD, Bool.and_comm]

/-- A flag is a function of the status word alone. -/
theorem flag_congr {s t : State} (h : s.statusFlags = t.statusFlags) (f : Flag) : flag f s = flag f t := by
  simp [flag, h]

/-- The error mask is 0xF0. -/
theorem errMask_eq : errMask = 0xF0#8 := by decide

/-- The reset word is exactly PhaseHost. -/
theorem resetFlags_eq : resetFlags = 0x04#8 := by decide

end Sys2Proof.Machine
end

