-- ==== Sys2Proof/Laws/Memory.lean ====
section
/-! SUPPORT. The result buffer: read after write, the canonical form, and the bit-set primitive. -/

namespace Sys2Proof.Machine

/-- Read after write, on the list: whatever its form. -/
theorem lookup_insert (a : Nat) (v : Byte) (m : Memory) (b : Nat) :
    Memory.lookup (Memory.insert a v m) b = if b = a then some v else Memory.lookup m b := by
  induction m with
  | nil => simp [Memory.insert, Memory.lookup, eq_comm (a := a)]
  | cons c m ih =>
    unfold Memory.insert
    split
    · simp [Memory.lookup, eq_comm (a := a)]
    · split
      · subst a
        by_cases h : c.1 = b <;> simp [Memory.lookup, h, eq_comm (a := b)]
      · simp only [Memory.lookup, ih]
        by_cases h : c.1 = b
        · have : ¬ b = a := by omega
          simp [h, this]
        · simp [h]

/-- Read after write of a byte. -/
theorem memRead_memWrite (a b : BufAddr) (v : Byte) (s : State) :
    memRead b (memWrite a v s) = if b = a then v else memRead b s := by
  by_cases h : b = a
  · simp [memRead, lookup_insert, h]
  · have : ¬ b.val = a.val := fun e => h (Fin.ext e)
    simp [memRead, lookup_insert, h, this]

/-- The bytes after the bit-set primitive. -/
theorem memRead_setBit (n : BitAddr) (b : BufAddr) (s : State) :
    memRead b (setBit n s) = if b = byteAddr n then memRead b s ||| bitMask n else memRead b s := by
  rw [setBit, memRead_memWrite]
  by_cases h : b = byteAddr n <;> simp [h]

/-- START's zeroing, address by address. -/
theorem zeroBuffer_eq (s : State) :
    zeroBuffer s = memWrite 4 0#8 (memWrite 3 0#8 (memWrite 2 0#8 (memWrite 1 0#8 (memWrite 0 0#8 s)))) := rfl

/-- START's zeroing leaves every byte 0. -/
theorem memRead_zeroBuffer (b : BufAddr) (s : State) : memRead b (zeroBuffer s) = 0#8 := by
  simp only [zeroBuffer_eq, memRead_memWrite]
  fin_cases b <;> rfl

/-- START's zeroing lists every byte. -/
theorem zeroBuffer_lookup (b : BufAddr) (s : State) :
    Memory.lookup (zeroBuffer s).dataBuffer b.val = some 0#8 := by
  simp only [zeroBuffer_eq, memWrite_dataBuffer, lookup_insert]
  fin_cases b <;> rfl

/-- A write un-lists nothing. -/
theorem lookup_isSome_memWrite {a : BufAddr} {v : Byte} {s : State} {b : Nat}
    (h : (Memory.lookup s.dataBuffer b).isSome = true) :
    (Memory.lookup (memWrite a v s).dataBuffer b).isSome = true := by
  rw [memWrite_dataBuffer, lookup_insert]
  split <;> simp_all

/-- An inserted list holds the new cell and old cells only. -/
theorem mem_insert {a : Nat} {v : Byte} {m : Memory} {c : Host.Cell} (h : c ∈ Memory.insert a v m) :
    c = (a, v) ∨ c ∈ m := by
  induction m with
  | nil => simpa [Memory.insert] using h
  | cons d m ih =>
    unfold Memory.insert at h
    split at h
    · simpa using h
    · split at h
      · rcases List.mem_cons.1 h with h | h <;> simp [h]
      · rcases List.mem_cons.1 h with h | h
        · simp [h]
        · rcases ih h with h | h <;> simp [h]

/-- A write inside the buffer keeps the canonical form. -/
theorem insert_wf {a : Nat} {v : Byte} {m : Memory} (ha : a < 5) (hm : Memory.wf m) :
    Memory.wf (Memory.insert a v m) := by
  constructor
  · induction m with
    | nil => simp [Memory.insert]
    | cons c m ih =>
      obtain ⟨hrise, hlt⟩ := hm
      rw [List.map_cons, List.pairwise_cons] at hrise
      have ih := ih ⟨hrise.2, fun d hd => hlt d (List.mem_cons_of_mem _ hd)⟩
      unfold Memory.insert
      split
      · rename_i h
        rw [List.map_cons, List.map_cons, List.pairwise_cons]
        refine ⟨fun x hx => ?_, by simpa using hrise⟩
        rcases List.mem_cons.1 hx with rfl | hx
        · exact h
        · exact h.trans (hrise.1 x hx)
      · split
        · subst a
          simpa using hrise
        · rw [List.map_cons, List.pairwise_cons]
          refine ⟨fun x hx => ?_, ih⟩
          obtain ⟨d, hd, rfl⟩ := List.mem_map.1 hx
          rcases mem_insert hd with rfl | hd
          · show c.1 < a
            omega
          · exact hrise.1 _ (List.mem_map_of_mem hd)
  · intro c hc
    rcases mem_insert hc with rfl | hc
    · exact ha
    · exact hm.2 c hc

/-- Every memory operation of the machine keeps the canonical form: a write. -/
theorem memWrite_wf (a : BufAddr) (v : Byte) {s : State} (hs : Memory.wf s.dataBuffer) :
    Memory.wf (memWrite a v s).dataBuffer := insert_wf a.isLt hs

/-- The bit-set primitive. -/
theorem setBit_wf (n : BitAddr) {s : State} (hs : Memory.wf s.dataBuffer) :
    Memory.wf (setBit n s).dataBuffer := memWrite_wf _ _ hs

/-- START's zeroing. -/
theorem zeroBuffer_wf {s : State} (hs : Memory.wf s.dataBuffer) : Memory.wf (zeroBuffer s).dataBuffer :=
  memWrite_wf _ _ (memWrite_wf _ _ (memWrite_wf _ _ (memWrite_wf _ _ (memWrite_wf _ _ hs))))

/-- The power-on buffer is in canonical form. -/
theorem reset_wf : Memory.wf State.reset.dataBuffer := ⟨List.Pairwise.nil, fun _ h => nomatch h⟩

end Sys2Proof.Machine
end

