-- ==== Sys2Proof/Laws/Operands.lean ====
section
/-! SUPPORT. What each operand is, said once. -/

namespace Sys2Proof.Machine

@[simp] theorem addN_eq {n : Nat} (a b : BitVec n) : addN a b = a + b := rfl
@[simp] theorem subN_eq {n : Nat} (a b : BitVec n) : subN a b = a - b := rfl
@[simp] theorem truncN_eq {m : Nat} (n : Nat) (v : BitVec m) : truncN n v = v.setWidth n := rfl
@[simp] theorem microseconds_eq (n : Nat) : microseconds n = n := Nat.mul_one n
@[simp] theorem counterUnits_eq (n : Nat) : counterUnits n = n := Nat.div_one n
@[simp] theorem stampOf_eq (now : Counter) : stampOf now = now.setWidth 32 := rfl
@[simp] theorem alarmTime_eq (now : Counter) : alarmTime now = now + 1000#64 := rfl
theorem elapsed_eq (now : Counter) (r : Stamp) : elapsed now r = now.setWidth 32 - r := rfl
@[simp] theorem bitIndexStart_eq : bitIndexStart = 0xFE#8 := rfl

/-- The unsigned comparison is the order of the words. -/
@[simp] theorem ltU_eq {n : Nat} (a b : BitVec n) : ltU a b = decide (a < b) := by
  simp [ltU, BitVec.lt_def]

/-- A position in the data-bit window. -/
theorem posClass_data {b : BitIdx} (h : b.toNat < 40) : posClass b = .data ⟨b.toNat, h⟩ := by
  unfold posClass
  exact dif_pos h

/-- The two sync values. -/
theorem posClass_sync {b : BitIdx} (h : 254 ≤ b.toNat) : posClass b = .sync := by
  unfold posClass
  rw [dif_neg (show ¬ b.toNat < params.frameBits from Nat.not_lt.2 (show 40 ≤ b.toNat by omega)), if_pos]
  rw [ltU_eq, decide_eq_true_iff, addN_eq]
  show b + 2#8 < b
  bv_omega

/-- The excess values. -/
theorem posClass_excess {b : BitIdx} (h : 40 ≤ b.toNat) (h' : b.toNat ≤ 253) : posClass b = .excess := by
  unfold posClass
  rw [dif_neg (show ¬ b.toNat < params.frameBits from Nat.not_lt.2 h), if_neg]
  rw [ltU_eq, decide_eq_true_iff, addN_eq]
  show ¬ b + 2#8 < b
  bv_omega

/-- Every position is of one of the three classes. -/
theorem posClass_cases (b : BitIdx) :
    (∃ h : b.toNat < 40, posClass b = .data ⟨b.toNat, h⟩) ∨
    (254 ≤ b.toNat ∧ posClass b = .sync) ∨
    (40 ≤ b.toNat ∧ b.toNat ≤ 253 ∧ posClass b = .excess) := by
  by_cases h : b.toNat < 40
  · exact .inl ⟨h, posClass_data h⟩
  · by_cases h' : 254 ≤ b.toNat
    · exact .inr (.inl ⟨h', posClass_sync h'⟩)
    · exact .inr (.inr ⟨by omega, by omega, posClass_excess (by omega) (by omega)⟩)

/-- An interval is a 1 bit exactly inside the upper window. -/
theorem symbol_bit1_iff (e : Stamp) : symbol e = .bit1 ↔ 68 ≤ e.toNat ∧ e.toNat ≤ 75 := by
  simp only [symbol, microseconds_eq, params]
  by_cases h : 68 ≤ e.toNat ∧ e.toNat ≤ 75 <;> by_cases h' : 22 ≤ e.toNat ∧ e.toNat ≤ 29 <;> simp [h, h']

/-- An interval is a 0 bit exactly inside the lower window. -/
theorem symbol_bit0_iff (e : Stamp) : symbol e = .bit0 ↔ 22 ≤ e.toNat ∧ e.toNat ≤ 29 := by
  simp only [symbol, microseconds_eq, params]
  by_cases h : 68 ≤ e.toNat ∧ e.toNat ≤ 75 <;> by_cases h' : 22 ≤ e.toNat ∧ e.toNat ≤ 29 <;> simp [h, h']
  omega

/-- An interval is malformed exactly outside both windows. -/
theorem symbol_err_iff (e : Stamp) : symbol e = .err ↔
    ¬ (68 ≤ e.toNat ∧ e.toNat ≤ 75) ∧ ¬ (22 ≤ e.toNat ∧ e.toNat ≤ 29) := by
  rw [← symbol_bit1_iff, ← symbol_bit0_iff]
  cases symbol e <;> simp

/-- The bits of a bit address's mask: bit address N is bit `7 - (N mod 8)` of its byte. -/
theorem bitMask_getLsbD (n : BitAddr) (j : Fin 8) :
    (bitMask n).getLsbD (7 - j.val) = decide (j.val = n.val % 8) := by
  revert n j
  decide

end Sys2Proof.Machine
end

