-- ==== Sys2Proof/Laws/Ops.lean ====
section
/-! SUPPORT. What each shared operation that branches can do: what it leaves alone, and what it writes. -/

namespace Sys2Proof.Machine

/-! ## The registrations -/

/-- `register(pin, ...)`: the error flag on failure, else the subscription. -/
theorem edgeRegister_eq (failed : Bool) (s : State) :
    edgeRegister failed s =
      { s with statusFlags := s.statusFlags ||| (if failed then 0x10#8 else 0#8),
               edgeSub := if failed then s.edgeSub else true } := by
  cases failed <;> simp [edgeRegister, recordError, setFlag, Flag.mask, Flag.pos]

/-- Registering and arming the alarm: the error flag on failure, else a pending alarm. -/
theorem armAlarm_eq (failed : Bool) (s : State) :
    armAlarm failed s =
      { s with statusFlags := s.statusFlags ||| (if failed then 0x20#8 else 0#8),
               alarmPending := if failed then s.alarmPending else true } := by
  cases failed <;> simp [armAlarm, recordError, setFlag, Flag.mask, Flag.pos]

/-! ## Admission -/

/-- An event is admitted exactly where it is enabled and its `NOW` is not out of order. -/
theorem takeEvent_next_iff (d : Option Refusal) (now : Counter) (s t : State) (body : State → State) :
    takeEvent d now s body = .next t ↔ d = none ∧ s.lastNow ≤ now ∧ t = body (beginEvent now s) := by
  cases d with
  | some r => simp [takeEvent]
  | none =>
    by_cases h : now < s.lastNow
    · have : ¬ s.lastNow ≤ now := by bv_omega
      simp [takeEvent, h, this]
    · have : s.lastNow ≤ now := by bv_omega
      simp [takeEvent, h, this, eq_comm]

/-- No admission faults. -/
theorem takeEvent_not_fault (d : Option Refusal) (now : Counter) (s : State) (body : State → State) (r : Fault) :
    takeEvent d now s body ≠ .fault r := by
  cases d with
  | some r => simp [takeEvent]
  | none => by_cases h : now < s.lastNow <;> simp [takeEvent, h]

theorem startDisabled_eq_none (s : State) : startDisabled s = none ↔ s.alarmPending = false := by
  cases h : s.alarmPending <;> simp [startDisabled, h]

theorem alarmDisabled_eq_none (now : Counter) (s : State) :
    alarmDisabled now s = none ↔ s.alarmPending = true ∧ s.alarmVal ≤ now := by
  by_cases hp : s.alarmPending = true
  · by_cases h : now < s.alarmVal
    · have : ¬ s.alarmVal ≤ now := by bv_omega
      simp [alarmDisabled, hp, h, this]
    · have : s.alarmVal ≤ now := by bv_omega
      simp [alarmDisabled, hp, h, this]
  · simp [alarmDisabled, hp]

theorem edgeDisabled_eq_none (s : State) : edgeDisabled s = none ↔ s.edgeSub = true := by
  cases h : s.edgeSub <;> simp [edgeDisabled, h]

/-! ## Classification -/

/-- The classification writes the status word and the buffer, and nothing else. -/
theorem classifyFall_eq (e : Stamp) (s : State) :
    classifyFall e s = { s with statusFlags := (classifyFall e s).statusFlags,
                                dataBuffer := (classifyFall e s).dataBuffer } := by
  rcases posClass_cases s.bitIndex with ⟨h, hc⟩ | ⟨-, hc⟩ | ⟨-, -, hc⟩ <;> simp only [classifyFall, hc]
  · cases symbol e <;> rfl
  · rfl

/-- The flags after the classification: at most one error flag is set. -/
theorem flag_classifyFall (e : Stamp) (f : Flag) (s : State) :
    flag f (classifyFall e s) = (flag f s ||
      (decide (f = .bitReadError) && decide (s.bitIndex.toNat < 40 ∧ symbol e = .err)) ||
      (decide (f = .bitOverflowError) && decide (40 ≤ s.bitIndex.toNat ∧ s.bitIndex.toNat ≤ 253))) := by
  rcases posClass_cases s.bitIndex with ⟨h, hc⟩ | ⟨h, hc⟩ | ⟨h, h', hc⟩ <;> simp only [classifyFall, hc]
  · have h2 : ¬ (40 ≤ s.bitIndex.toNat) := by omega
    cases hs : symbol e
    · simp [recordSymbol, h2]
    · simp [recordSymbol, h2, setBit]
    · simp [recordSymbol, h2, h, Bool.or_comm]
  · have h1 : ¬ (s.bitIndex.toNat < 40) := by omega
    have h2 : ¬ (s.bitIndex.toNat ≤ 253) := by omega
    simp [h1, h2]
  · have h1 : ¬ (s.bitIndex.toNat < 40) := by omega
    simp [h1, h, h', Bool.or_comm]

/-- The bytes after the classification: the bit of a data position whose symbol is 1 is OR-ed in. -/
theorem memRead_classifyFall (e : Stamp) (a : BufAddr) (s : State) :
    memRead a (classifyFall e s) =
      if s.bitIndex.toNat < 40 ∧ symbol e = .bit1 ∧ a.val = s.bitIndex.toNat / 8
      then memRead a s ||| (0x80#8 >>> (s.bitIndex.toNat % 8)) else memRead a s := by
  rcases posClass_cases s.bitIndex with ⟨h, hc⟩ | ⟨h, hc⟩ | ⟨h, h', hc⟩ <;> simp only [classifyFall, hc]
  · cases hs : symbol e
    · simp [recordSymbol]
    · simp only [recordSymbol, memRead_setBit, h, true_and]
      have : a = byteAddr ⟨s.bitIndex.toNat, h⟩ ↔ a.val = s.bitIndex.toNat / 8 := Fin.ext_iff
      simp only [this]
      rfl
    · simp [recordSymbol]
  · rw [if_neg (by omega)]
  · rw [if_neg (by omega)]
    rfl

/-- The classification keeps the canonical form of the buffer. -/
theorem classifyFall_wf (e : Stamp) {s : State} (h : Memory.wf s.dataBuffer) :
    Memory.wf (classifyFall e s).dataBuffer := by
  rcases posClass_cases s.bitIndex with ⟨h', hc⟩ | ⟨-, hc⟩ | ⟨-, -, hc⟩ <;> simp only [classifyFall, hc]
  · cases symbol e
    · exact h
    · exact setBit_wf _ h
    · exact h
  · exact h
  · exact h

/-- The classification un-lists no byte. -/
theorem lookup_isSome_classifyFall (e : Stamp) {s : State} {b : Nat}
    (h : (Memory.lookup s.dataBuffer b).isSome = true) :
    (Memory.lookup (classifyFall e s).dataBuffer b).isSome = true := by
  rcases posClass_cases s.bitIndex with ⟨h', hc⟩ | ⟨-, hc⟩ | ⟨-, -, hc⟩ <;> simp only [classifyFall, hc]
  · cases symbol e
    · exact h
    · exact lookup_isSome_memWrite h
    · exact h
  · exact h
  · exact h

/-! ## Completion -/

/-- The completion sub-step writes the status word and the notification, and nothing else. -/
theorem complete_eq (s : State) :
    complete s = { s with statusFlags := (complete s).statusFlags, done := (complete s).done } := by
  have hv : ∀ u, validate u = { u with statusFlags := (validate u).statusFlags } := fun u => by
    cases h : checksumMatches u <;> simp [validate, h, setFlag]
  have hn : ∀ u, notify u = { u with done := (notify u).done } := fun u => by
    cases h : u.cfg.cbEn <;> simp [notify, h]
  rw [complete, hn, hv]
  rfl

/-- Completion writes the status word and the notification, and nothing else. -/
theorem completeIfDone_eq (s : State) :
    completeIfDone s = { s with statusFlags := (completeIfDone s).statusFlags, done := (completeIfDone s).done } := by
  unfold completeIfDone
  split
  · exact complete_eq s
  · rfl

/-- Completion reads the buffer and leaves it. -/
@[simp] theorem memRead_completeIfDone (a : BufAddr) (s : State) : memRead a (completeIfDone s) = memRead a s := by
  rw [completeIfDone_eq]
  rfl

/-- The flags of a completion. -/
theorem flag_complete (f : Flag) (s : State) :
    flag f (complete s) = match f with
      | .ready => true
      | .phaseDevice => false
      | .valid => flag .valid s || checksumMatches s
      | g => flag g s := by
  have hc : checksumMatches (setFlag .ready (clearFlag .phaseDevice s)) = checksumMatches s := rfl
  have hn : ∀ u, flag f (notify u) = flag f u := fun u => by unfold notify; split <;> rfl
  rw [complete, hn, validate, hc]
  cases f <;> cases checksumMatches s <;> simp

/-- The notification of a completion. -/
theorem complete_done (s : State) : (complete s).done = if s.cfg.cbEn then some s.cfg.ctx else s.done := by
  have hv : ∀ u : State, (validate u).cfg = u.cfg ∧ (validate u).done = u.done := fun u => by
    cases h : checksumMatches u <;> simp [validate, h]
  cases h : s.cfg.cbEn <;> simp [complete, notify, hv, h]

end Sys2Proof.Machine
end

