-- ==== Sys2Proof/Laws/Exec.lean ====
section
/-! SUPPORT. What each event can do: when it is admitted, and the state it leaves. -/

namespace Sys2Proof.Machine

/-! ## START -/

/-- START's outcome, field by field. -/
theorem startBody_eq (gf tf : Bool) (now : Counter) (cfg : CommConfig) (s : State) :
    startBody gf tf now cfg s =
      { s with
        hostPullDownTime := now.setWidth 32
        bitIndex := 0xFE#8
        statusFlags := 0x04#8 ||| (if gf then 0x10#8 else 0#8) ||| (if tf then 0x20#8 else 0#8)
        dataBuffer := (zeroBuffer s).dataBuffer
        cfg := cfg
        lineOe := true
        lineOut := false
        edgeSub := !gf
        alarmVal := now + 1000#64
        alarmPending := if tf then s.alarmPending else true
        err := some ((0x04#8 ||| (if gf then 0x10#8 else 0#8) ||| (if tf then 0x20#8 else 0#8)) &&& 0xF0#8) } := by
  simp only [startBody, edgeRegister_eq, armAlarm_eq, returnErrorMask, setAlarmValue, stampPullDown, setLevel,
    setDirection, edgeDeregister, resetRead, takeConfig, zeroBuffer_eq, memWrite, resetFlags_eq, errMask_eq,
    alarmTime_eq, stampOf_eq, bitIndexStart_eq]
  cases gf <;> simp

/-- The flags after START. -/
theorem flag_startBody (f : Flag) (gf tf : Bool) (now : Counter) (cfg : CommConfig) (s : State) :
    flag f (startBody gf tf now cfg s) = match f with
      | .phaseHost => true
      | .gpioRegisterError => gf
      | .timerRegisterError => tf
      | .ready => false
      | .valid => false
      | .phaseDevice => false
      | .bitReadError => false
      | .bitOverflowError => false := by
  have h : flag f (startBody gf tf now cfg s) =
      (0x04#8 ||| (if gf then 0x10#8 else 0#8) ||| (if tf then 0x20#8 else 0#8)).getLsbD f.pos := by
    rw [startBody_eq]
    rfl
  rw [h]
  clear h
  cases f <;> revert gf tf <;> decide

/-- When START is admitted, and what it leaves. -/
theorem exec_start_next_iff (gf tf : Bool) (now : Counter) (cfg : CommConfig) (s t : State) :
    exec (.start gf tf now cfg) s = .next t ↔
      s.alarmPending = false ∧ s.lastNow ≤ now ∧ t = startBody gf tf now cfg (beginEvent now s) := by
  show takeEvent _ _ _ _ = _ ↔ _
  rw [takeEvent_next_iff, startDisabled_eq_none]

/-! ## ALARM -/

/-- ALARM's outcome, field by field. -/
theorem alarmBody_eq (now : Counter) (s : State) :
    alarmBody now s =
      { s with
        hostPullUpTime := now.setWidth 32
        statusFlags := (s.statusFlags &&& 0xFB#8) ||| 0x08#8
        lineOe := false
        lineOut := true
        linePu := true
        alarmPending := false } := rfl

/-- When ALARM is admitted, and what it leaves. -/
theorem exec_alarm_next_iff (now : Counter) (s t : State) :
    exec (.alarm now) s = .next t ↔
      (s.alarmPending = true ∧ s.alarmVal ≤ now) ∧ s.lastNow ≤ now ∧ t = alarmBody now (beginEvent now s) := by
  show takeEvent _ _ _ _ = _ ↔ _
  rw [takeEvent_next_iff, alarmDisabled_eq_none]

/-- The flags after ALARM. -/
theorem flag_alarmBody (f : Flag) (now : Counter) (s : State) :
    flag f (alarmBody now s) = (decide (f = .phaseDevice) || (!decide (f = .phaseHost) && flag f s)) := by
  have : flag f (alarmBody now s) = flag f (setFlag .phaseDevice (clearFlag .phaseHost s)) := rfl
  rw [this, flag_setFlag, flag_clearFlag]

/-! ## EDGE_RISE -/

/-- When EDGE_RISE is admitted, and what it leaves. -/
theorem exec_edgeRise_next_iff (now : Counter) (s t : State) :
    exec (.edgeRise now) s = .next t ↔
      s.edgeSub = true ∧ s.lastNow ≤ now ∧ t = stampRise now (beginEvent now s) := by
  show takeEvent _ _ _ _ = _ ↔ _
  rw [takeEvent_next_iff, edgeDisabled_eq_none]

/-! ## EDGE_FALL -/

/-- When EDGE_FALL is admitted, and what it leaves. -/
theorem exec_edgeFall_next_iff (now : Counter) (s t : State) :
    exec (.edgeFall now) s = .next t ↔
      s.edgeSub = true ∧ s.lastNow ≤ now ∧ t = fallBody now (beginEvent now s) := by
  show takeEvent _ _ _ _ = _ ↔ _
  rw [takeEvent_next_iff, edgeDisabled_eq_none]

/-- EDGE_FALL writes the position, the status word, the buffer and the notification, and nothing else. -/
theorem fallBody_eq (now : Counter) (s : State) :
    fallBody now s =
      { s with
        bitIndex := s.bitIndex + 1#8
        statusFlags := (fallBody now s).statusFlags
        dataBuffer := (classifyFall (elapsed now s.lastDevicePullUpTime) s).dataBuffer
        done := (fallBody now s).done } := by
  have h : fallBody now s = completeIfDone (advance (classifyFall (elapsed now s.lastDevicePullUpTime) s)) := rfl
  rw [h, completeIfDone_eq, classifyFall_eq]
  rfl

/-- Completion happens exactly where the old position is 39 and Ready is not set. -/
theorem completeIfDone_advance (s : State) :
    completeIfDone (advance s) =
      if s.bitIndex = 39#8 ∧ flag .ready s = false then complete (advance s) else advance s := by
  have : (advance s).bitIndex = BitVec.ofNat 8 params.frameBits ↔ s.bitIndex = 39#8 := by
    show s.bitIndex + 1#8 = 40#8 ↔ _
    constructor <;> intro h <;> bv_omega
  simp only [completeIfDone, this, advance_flag]

/-- The classification leaves the position and Ready. -/
theorem classifyFall_bitIndex (e : Stamp) (s : State) : (classifyFall e s).bitIndex = s.bitIndex := by
  rw [classifyFall_eq]

/-- The flags after EDGE_FALL: what the classification records, and what completion writes. -/
theorem flag_fallBody (f : Flag) (now : Counter) (s : State) :
    flag f (fallBody now s) =
      if s.bitIndex = 39#8 ∧ flag .ready s = false then
        match f with
        | .ready => true
        | .phaseDevice => false
        | .valid => flag .valid s || checksumMatches (classifyFall (elapsed now s.lastDevicePullUpTime) s)
        | g => flag g (classifyFall (elapsed now s.lastDevicePullUpTime) s)
      else flag f (classifyFall (elapsed now s.lastDevicePullUpTime) s) := by
  have hr : flag .ready (classifyFall (elapsed now s.lastDevicePullUpTime) s) = flag .ready s := by
    simp [flag_classifyFall]
  have hv : flag .valid (classifyFall (elapsed now s.lastDevicePullUpTime) s) = flag .valid s := by
    simp [flag_classifyFall]
  have hc : ∀ u, checksumMatches (advance u) = checksumMatches u := fun _ => rfl
  unfold fallBody
  generalize elapsed now s.lastDevicePullUpTime = e at *
  simp only [ completeIfDone_advance, classifyFall_bitIndex, hr]
  split
  · rw [flag_complete]
    cases f <;> simp [hv, hc]
  · simp

/-- The notification after EDGE_FALL. -/
theorem fallBody_done (now : Counter) (s : State) :
    (fallBody now s).done =
      if s.bitIndex = 39#8 ∧ flag .ready s = false ∧ s.cfg.cbEn = true then some s.cfg.ctx else s.done := by
  have hr : flag .ready (classifyFall (elapsed now s.lastDevicePullUpTime) s) = flag .ready s := by
    simp [flag_classifyFall]
  have hf : (classifyFall (elapsed now s.lastDevicePullUpTime) s).cfg = s.cfg ∧
      (classifyFall (elapsed now s.lastDevicePullUpTime) s).done = s.done := by
    rw [classifyFall_eq]
    exact ⟨rfl, rfl⟩
  unfold fallBody
  generalize elapsed now s.lastDevicePullUpTime = e at *
  simp only [completeIfDone_advance, classifyFall_bitIndex, hr]
  by_cases h : s.bitIndex = 39#8 ∧ flag .ready s = false
  · rw [if_pos h, complete_done]
    simp [hf, h]
  · rw [if_neg h, if_neg (fun h' => h ⟨h'.1, h'.2.1⟩), advance_done, hf.2]

/-- The bytes after EDGE_FALL. -/
theorem memRead_fallBody (a : BufAddr) (now : Counter) (s : State) :
    memRead a (fallBody now s) =
      if s.bitIndex.toNat < 40 ∧ symbol (elapsed now s.lastDevicePullUpTime) = .bit1 ∧
        a.val = s.bitIndex.toNat / 8
      then memRead a s ||| (0x80#8 >>> (s.bitIndex.toNat % 8)) else memRead a s := by
  simp only [fallBody, memRead_completeIfDone, advance_memRead, memRead_classifyFall]

/-! ## Any event -/

/-- No event faults. -/
theorem exec_not_fault (i : Instr) (s : State) (r : Fault) : exec i s ≠ .fault r := by
  cases i <;> exact takeEvent_not_fault _ _ _ _ _

/-- What a step can do: nothing where no event waits, else the decoded event's operation. -/
theorem step_next_iff (s t : State) :
    step s = .next t ↔
      (s.trace = [] ∧ t = s) ∨
      ∃ e rest i, s.trace = e :: rest ∧ decode e = .ok i ∧ exec i { s with trace := rest } = .next t := by
  unfold step nextEvent
  cases h : s.trace with
  | nil => simp [eq_comm]
  | cons e rest => cases h' : decode e <;> simp [h']

end Sys2Proof.Machine
end

