-- ==== Sys2Proof/Laws/PerInstr.lean ====
section
/-! SUPPORT. Statements made per instruction: the encoding of every event is a well-formed input. -/

namespace Sys2Proof.Laws.EventWord

/-- The event word that the encoder writes for the instruction is none of the reserved values
(30_encoding.md R96). -/
def Statement (i : Instr) : Prop := (encode i).wellFormed = true

theorem start (gf tf : Bool) (now : Counter) (cfg : CommConfig) : Statement (.start gf tf now cfg) := by
  cases gf <;> cases tf <;>
    simp [Statement, encode, encodeWord, evBit, EventInput.wellFormed, EventInput.kindDefined,
      EventInput.alarmFieldsZero, EventInput.edgeFieldZero]

theorem alarm (now : Counter) : Statement (.alarm now) := by
  simp [Statement, encode, encodeWord, EventInput.wellFormed, EventInput.kindDefined,
    EventInput.alarmFieldsZero, EventInput.edgeFieldZero]

theorem edgeFall (now : Counter) : Statement (.edgeFall now) := by
  simp [Statement, encode, encodeWord, EventInput.wellFormed, EventInput.kindDefined,
    EventInput.alarmFieldsZero, EventInput.edgeFieldZero]

theorem edgeRise (now : Counter) : Statement (.edgeRise now) := by
  simp [Statement, encode, encodeWord, EventInput.wellFormed, EventInput.kindDefined,
    EventInput.alarmFieldsZero, EventInput.edgeFieldZero]

end Sys2Proof.Laws.EventWord
end

