-- ==== Sys2Proof/Laws/Trace.lean ====
section
/-! SUPPORT. Runs: the induction over the events of a read, packaged once, and the place of the trace
in State. -/

namespace Sys2Proof.Machine

/-- A run of one event and more. -/
theorem runEvents_cons_next_iff (i : Instr) (is : List Instr) (s u : State) :
    runEvents (i :: is) s = .next u ↔ ∃ t, exec i s = .next t ∧ runEvents is t = .next u := by
  rw [runEvents]
  cases exec i s <;> simp

/-- A trace of one event and more stays inside the read exactly if all its events do. -/
theorem withinRead_cons (i : Instr) (is : List Instr) :
    withinRead (i :: is) = true ↔ isStart i = false ∧ withinRead is = true := by
  simp [withinRead]

/-- What every event but START keeps, every run inside a read keeps. -/
theorem runEvents_induction {P : State → Prop}
    (hstep : ∀ i s t, isStart i = false → P s → exec i s = .next t → P t)
    {is : List Instr} {s u : State} (hw : withinRead is = true) (hs : P s) (hr : runEvents is s = .next u) : P u := by
  induction is generalizing s with
  | nil =>
    simp only [runEvents, Host.Outcome.next.injEq] at hr
    exact hr ▸ hs
  | cons i is ih =>
    obtain ⟨hi, hw⟩ := (withinRead_cons i is).1 hw
    obtain ⟨t, ht, hr⟩ := (runEvents_cons_next_iff i is s u).1 hr
    exact ih hw (hstep i s t hi hs ht) hr

/-! ## No operation looks at the events that wait -/

/-- Admission with another trace waiting. -/
theorem takeEvent_trace (d : Option Refusal) (now : Counter) (s : State) (x : List EventInput) (body : State → State)
    (hb : ∀ u, body { u with trace := x } = { body u with trace := x }) :
    takeEvent d now { s with trace := x } body =
      (match takeEvent d now s body with
        | .next t => .next { t with trace := x }
        | .fault r => .fault r
        | .refused r => .refused r) := by
  cases d with
  | some r => rfl
  | none =>
    simp only [takeEvent]
    split
    · rfl
    · simp only [← hb]
      rfl

/-- Completion with another trace waiting. -/
theorem completeIfDone_trace (v : State) (x : List EventInput) :
    completeIfDone { v with trace := x } = { completeIfDone v with trace := x } := by
  have hv : ∀ w : State, validate { w with trace := x } = { validate w with trace := x } := fun w => by
    have hc : checksumMatches { w with trace := x } = checksumMatches w := rfl
    cases h : checksumMatches w <;> simp only [validate, hc, h] <;> rfl
  have hn : ∀ w : State, notify { w with trace := x } = { notify w with trace := x } := fun w => by
    cases h : w.cfg.cbEn <;> simp [notify, h]
  unfold completeIfDone
  by_cases h : v.bitIndex = BitVec.ofNat 8 params.frameBits ∧ flag .ready v = false
  · rw [if_pos h, if_pos (by exact h)]
    show notify (validate { setFlag .ready (clearFlag .phaseDevice v) with trace := x }) = _
    rw [hv, hn]
    rfl
  · rw [if_neg h, if_neg (by exact h)]

/-- EDGE_FALL with another trace waiting. -/
theorem fallBody_trace (now : Counter) (u : State) (x : List EventInput) :
    fallBody now { u with trace := x } = { fallBody now u with trace := x } := by
  have hc : ∀ e, classifyFall e { u with trace := x } = { classifyFall e u with trace := x } := fun e => by
    simp only [classifyFall]
    split
    · cases symbol e <;> rfl
    · rfl
    · rfl
  simp only [fallBody, hc]
  exact completeIfDone_trace (advance _) x

/-- An event's operation neither reads nor changes the events that wait. -/
theorem exec_trace (i : Instr) (s : State) (x : List EventInput) :
    exec i { s with trace := x } =
      (match exec i s with
        | .next t => .next { t with trace := x }
        | .fault r => .fault r
        | .refused r => .refused r) := by
  cases i with
  | start gf tf now cfg =>
    refine takeEvent_trace (startDisabled s) now s x _ fun u => ?_
    rw [startBody_eq, startBody_eq]
    rfl
  | alarm now => exact takeEvent_trace (alarmDisabled now s) now s x _ fun _ => rfl
  | edgeFall now => exact takeEvent_trace (edgeDisabled s) now s x _ (fallBody_trace now · x)
  | edgeRise now => exact takeEvent_trace (edgeDisabled s) now s x _ fun _ => rfl

/-- `k + 1` steps of the machine. -/
theorem core_run_succ (k : Nat) (s : State) :
    Host.Core.run core (k + 1) s =
      (match step s with
        | .next t => Host.Core.run core k t
        | .fault r => .fault r
        | .refused r => .refused r) := by
  have h : ∀ (M : Host.Core) (s : M.State), M.run (k + 1) s =
      (match M.step s with
        | .next t => M.run k t
        | .fault r => .fault r
        | .refused r => .refused r) := fun M s => by
    cases hc : M.step s <;> simp only [Host.Core.run, hc]
  have h := h core s
  have hs : core.step s = step s := rfl
  rcases hc : step s with t | r | r <;> rw [hs.trans hc] at h <;> exact h

end Sys2Proof.Machine
end

