-- ==== Sys2Proof/Tests/Slice0.lean ====
section
/-! SUPPORT. The smoke tests of the checks, the words of the encoding, one-step vectors taken from
95_test_vectors.md (named in each docstring), and for every obligation with hypotheses a witness that
meets them. -/

namespace Sys2Proof.Machine.Tests

/-! ## The checks refuse what is ill formed -/

/-- An event with this word, at time 100. -/
def wordAt100 (ev : EventWord) : EventInput := ⟨ev, 100#64, zeroConfig⟩

/-- `KIND` = 0b11 is reserved (R90). -/
theorem test_kindDefined_refuses : (wordAt100 0xC#4).kindDefined = false := by decide
/-- An ALARM word with `B` = 1 is reserved (R90). -/
theorem test_alarmFieldsZero_refuses : (wordAt100 0x5#4).alarmFieldsZero = false := by decide
/-- An EDGE word with `A` = 1 is reserved (R90). -/
theorem test_edgeFieldZero_refuses : (wordAt100 0xA#4).edgeFieldZero = false := by decide
/-- A reserved word is no well-formed input (R96), and the seven others are. -/
theorem test_wellFormed_words :
    ([0, 1, 2, 3, 4, 5, 6, 7, 8, 9, 10, 11, 12, 13, 14, 15].filter fun n =>
      (wordAt100 (BitVec.ofNat 4 n)).wellFormed) = [0, 1, 2, 3, 4, 8, 9] := by decide
/-- A trace whose `NOW` goes back is refused (R94, vector X8), an equal one is not. -/
theorem test_nowOrdered_refuses :
    nowOrdered [⟨0x4#4, 12000#64, zeroConfig⟩, ⟨0x8#4, 11999#64, zeroConfig⟩] = false ∧
    nowOrdered [⟨0x4#4, 12000#64, zeroConfig⟩, ⟨0x8#4, 12000#64, zeroConfig⟩] = true := by decide
/-- A counter too narrow for the frame (R7: `2^W - 2 ≥ 40`). -/
theorem test_counterHoldsFrame_refuses : Params.counterHoldsFrame { params with bitIdxW := 5 } = false := by decide
/-- A stamp below 8 bits (R105). -/
theorem test_stampWideEnough_refuses : Params.stampWideEnough { params with tsW := 7 } = false := by decide
/-- A buffer that does not hold the frame (R60). -/
theorem test_bufferHoldsFrame_refuses : Params.bufferHoldsFrame { params with bufBytes := 4 } = false := by decide
/-- Windows that overlap (R103). -/
theorem test_windowsDisjoint_refuses : Params.windowsDisjoint { params with zeroMax := 68 } = false := by decide
/-- A counter unit of no time, and a host low time that is no whole number of units (R7). -/
theorem test_tickMeasures_refuses :
    Params.tickMeasures { params with tickUs := 0 } = false ∧ Params.tickMeasures { params with tickUs := 3 } = false := by
  decide
/-- Fewer bits than flags (R28). -/
theorem test_flagsFit_refuses : Params.flagsFit { params with flagsW := 7 } = false := by decide
/-- An event word that lacks a field (R90). -/
theorem test_eventWordFits_refuses : Params.eventWordFits { params with evW := 3 } = false := by decide
/-- The model's own parameters pass. -/
theorem test_params_wellFormed : params.wellFormed = true := by decide

/-! ## Decoding: the words written out from 30_encoding.md R91 to R93 -/

/-- START: `KIND` 00, `GF`, `TF`. -/
theorem test_decode_start : ∀ now cfg,
    decode ⟨0b0000#4, now, cfg⟩ = .ok (.start false false now cfg) ∧
    decode ⟨0b0001#4, now, cfg⟩ = .ok (.start false true now cfg) ∧
    decode ⟨0b0010#4, now, cfg⟩ = .ok (.start true false now cfg) ∧
    decode ⟨0b0011#4, now, cfg⟩ = .ok (.start true true now cfg) := by
  intro now cfg
  simp [decode, fieldKindHi, fieldKindLo, fieldA, fieldB]
/-- ALARM: `KIND` 01, zeros. -/
theorem test_decode_alarm : ∀ now cfg, decode ⟨0b0100#4, now, cfg⟩ = .ok (.alarm now) := by
  intro now cfg
  simp [decode, fieldKindHi, fieldKindLo, fieldA, fieldB]
/-- EDGE: `KIND` 10, `A` 0, `LVL` 0. -/
theorem test_decode_edgeFall : ∀ now cfg, decode ⟨0b1000#4, now, cfg⟩ = .ok (.edgeFall now) := by
  intro now cfg
  simp [decode, fieldKindHi, fieldKindLo, fieldA, fieldB]
/-- EDGE: `KIND` 10, `A` 0, `LVL` 1. -/
theorem test_decode_edgeRise : ∀ now cfg, decode ⟨0b1001#4, now, cfg⟩ = .ok (.edgeRise now) := by
  intro now cfg
  simp [decode, fieldKindHi, fieldKindLo, fieldA, fieldB]
/-- The nine reserved words (R96, vector X7). -/
theorem test_decode_reserved :
    ∀ ev ∈ [0b0101#4, 0b0110#4, 0b0111#4, 0b1010#4, 0b1011#4, 0b1100#4, 0b1101#4, 0b1110#4, 0b1111#4],
      decode (wordAt100 ev) = .error (.reservedEventWord ev) := by decide
/-- The words the encoder writes. -/
theorem test_encode_words :
    encodeWord (.start true false 5#64 zeroConfig) = 0x2#4 ∧ encodeWord (.start false true 5#64 zeroConfig) = 0x1#4 ∧
    encodeWord (.alarm 5#64) = 0x4#4 ∧ encodeWord (.edgeFall 5#64) = 0x8#4 ∧
    encodeWord (.edgeRise 5#64) = 0x9#4 := by decide
/-- A table word. -/
theorem test_decodeTableWord :
    decodeTableWord 8 0x9 = some (.edgeRise 0#64) ∧ decodeTableWord 8 0xA = none ∧ decodeTableWord 8 0x19 = none := by
  decide
/-- The written form (R111; program A, event 1). -/
theorem test_showEvent : showEvent (.start false false 10000#64 zeroConfig) = "START gf=0 tf=0 @10000" := by decide
/-- `SYNC2(30)` and `BIT0`, `BIT1` after an ALARM at 11003: program A, events 3 to 9. -/
theorem test_pseudo_events :
    inSequence [sync2 30#64, cell0, cell1] 11003#64 =
      ([.edgeFall 11033#64, .edgeRise 11113#64, .edgeFall 11193#64, .edgeRise 11243#64, .edgeFall 11269#64,
        .edgeRise 11319#64, .edgeFall 11389#64], 11389#64) := by decide
/-- `BYTE(0x40)`: the 1 is the second cell, 70 long (R112; R62). -/
theorem test_byteCells : (fallIntervals (byteCells 0x40#8 0#64).1 0#32).map BitVec.toNat =
    [26, 70, 26, 26, 26, 26, 26, 26] := by decide

/-! ## States to test on -/

/-- A configuration with a callback. -/
def testCfg : CommConfig := ⟨4, 0, 1, true, 42⟩

/-- Five bytes. -/
def bytes (b0 b1 b2 b3 b4 : Byte) : Memory := [(0, b0), (1, b1), (2, b2), (3, b3), (4, b4)]

/-- The Device phase with the last rising edge at 1000: what stands before rows F1 to F15. -/
def deviceState : State where
  hostPullDownTime := 0#32
  hostPullUpTime := 1000#32
  lastDevicePullUpTime := 1000#32
  bitIndex := 0#8
  statusFlags := 0x08#8
  dataBuffer := bytes 0 0 0 0 0
  cfg := testCfg
  lineOe := false
  lineOut := true
  linePu := true
  edgeSub := true
  alarmVal := 1000#64
  alarmPending := false
  done := none
  err := none
  lastNow := 1000#64
  trace := []

/-- The state that vector S1 leaves: a read begun at 10000. -/
def hostState : State :=
  { deviceState with
    hostPullDownTime := 10000#32, bitIndex := 0xFE#8, statusFlags := 0x04#8, lineOe := true, lineOut := false
    alarmVal := 11000#64, alarmPending := true, err := some 0x00#8, lastNow := 10000#64 }

/-- A complete valid read: what program A leaves. -/
def readyState : State :=
  { deviceState with
    lastDevicePullUpTime := 15043#32, bitIndex := 0x28#8, statusFlags := 0x03#8
    dataBuffer := bytes 0x55 0x55 0x55 0x55 0x54, lastNow := 15069#64 }

/-- A field of the next state, if there is one. -/
def after {α : Type} (r : Result) (f : State → α) : Option α :=
  match r with
  | .next t => some (f t)
  | .fault _ => none
  | .refused _ => none

/-- Whether there is a next state. -/
def isNext : Result → Bool
  | .next _ => true
  | .fault _ => false
  | .refused _ => false

theorem isNext_iff (r : Result) : isNext r = true ↔ ∃ t, r = .next t := by cases r <;> simp [isNext]

/-- A run of one event and more gives the two states that statements about a read name. -/
theorem read_exists {i : Instr} {is : List Instr} {s : State} (h : isNext (runEvents (i :: is) s) = true) :
    ∃ s0 t, exec i s = .next s0 ∧ runEvents is s0 = .next t := by
  obtain ⟨t, ht⟩ := (isNext_iff _).1 h
  obtain ⟨s0, h0, ht⟩ := (runEvents_cons_next_iff ..).1 ht
  exact ⟨s0, t, h0, ht⟩

/-! ## One-step vectors of 95_test_vectors.md -/

/-- S2, from power-on: flags 0x14, position 0xFE, no subscription, the alarm at 11000, returns 0x10. -/
theorem test_start_S2 :
    after (exec (.start true false 10000#64 testCfg) State.reset) (fun t =>
      ([t.statusFlags, t.bitIndex], [t.edgeSub, t.alarmPending], t.alarmVal, t.err, [0, 1, 2, 3, 4].map (memRead · t))) =
    some ([0x14#8, 0xFE#8], [false, true], 11000#64, some 0x10#8, [0, 0, 0, 0, 0]) := by decide
/-- S9: the stamp is truncated, the alarm value is not. -/
theorem test_start_S9 :
    after (exec (.start false false 4294966796#64 testCfg) readyState) (fun t =>
      (t.hostPullDownTime, t.alarmVal, t.lineOe, t.lineOut, t.statusFlags)) =
    some (0xFFFFFE0C#32, 0x1000001F4#64, true, false, 0x04#8) := by decide
/-- A1: flags 0x08, hpu 11003, the line released. -/
theorem test_alarm_A1 :
    after (exec (.alarm 11003#64) hostState) (fun t =>
      (t.statusFlags, t.hostPullUpTime, [t.lineOut, t.linePu, t.lineOe, t.alarmPending], t.bitIndex)) =
    some (0x08#8, 11003#32, [true, true, false, false], 0xFE#8) := by decide
/-- A3: one microsecond early, refused. -/
theorem test_alarm_A3 : exec (.alarm 10999#64) hostState = .refused .alarmBeforeValue := rfl
/-- E2: the stamp is truncated, nothing else is written. -/
theorem test_rise_E2 :
    after (exec (.edgeRise 4886718345#64) deviceState) (fun t => (t.lastDevicePullUpTime, t.statusFlags, t.bitIndex)) =
    some (0x23456789#32, 0x08#8, 0x00#8) := by decide
/-- F17: an interval across the wrap of the stamp, at position 5. -/
theorem test_fall_F17 :
    after (exec (.edgeFall 4294967350#64) { deviceState with lastDevicePullUpTime := 0xFFFFFFF0#32, bitIndex := 5#8 })
      (fun t => (t.dataBuffer, t.bitIndex, t.statusFlags)) =
    some (bytes 0x04 0 0 0 0, 6#8, 0x08#8) := by decide
/-- K7: the last bit is malformed and the sum wraps to the checksum; Ready, Valid, BitReadError and the
notification in one step. -/
theorem test_fall_K7 :
    after (exec (.edgeFall 1050#64) { deviceState with bitIndex := 39#8, dataBuffer := bytes 0x80 0x80 0 0 0 })
      (fun t => (t.dataBuffer, t.bitIndex, t.statusFlags, t.done)) =
    some (bytes 0x80 0x80 0 0 0, 40#8, 0x43#8, some 42) := by decide

/-! ## The step and the host's entry points -/

/-- A presented START runs as the first event after power-on. -/
theorem test_withFetchWord_start :
    after (step (State.reset.withFetchWord 8 0x1)) (fun t => (t.statusFlags, t.err, t.edgeSub, t.trace)) =
    some (0x24#8, some 0x20#8, true, []) := by decide
/-- At power-on ALARM and EDGE are not enabled, and are refused by their own meanings (R271; A6, E6, X6). -/
theorem test_withFetchWord_disabled :
    step (State.reset.withFetchWord 8 0x4) = .refused .alarmNotPending ∧
    step (State.reset.withFetchWord 8 0x8) = .refused .edgeNotSubscribed ∧
    step (State.reset.withFetchWord 8 0x9) = .refused .edgeNotSubscribed := by
  refine ⟨rfl, rfl, rfl⟩

/-! ## Witnesses: for every obligation with hypotheses, a concrete state and operands that meet them -/

/-- The next event waits on the ports. -/
def waiting (i : Instr) (s : State) : State := { s with trace := [encode i] }

theorem witness_StepRunsDecodedEvent :
    (waiting (.edgeFall 1070#64) deviceState).trace = encode (.edgeFall 1070#64) :: [] ∧
    decode (encode (.edgeFall 1070#64)) = .ok (.edgeFall 1070#64) := ⟨rfl, by decide⟩

theorem witness_IdleStepChangesNothing : State.reset.trace = [] := rfl

/-- The reserved words at both ends of their ranges, each as the next event. -/
theorem witness_EventWordsMeanTheirOperation :
    step { deviceState with trace := [wordAt100 0x5#4] } = .refused (.reservedEventWord 0x5#4) ∧
    step { deviceState with trace := [wordAt100 0x7#4] } = .refused (.reservedEventWord 0x7#4) ∧
    step { deviceState with trace := [wordAt100 0xA#4] } = .refused (.reservedEventWord 0xA#4) ∧
    step { deviceState with trace := [wordAt100 0xF#4] } = .refused (.reservedEventWord 0xF#4) := ⟨rfl, rfl, rfl, rfl⟩

/-- Every row covers a word; START's row up to its last. -/
theorem witness_TableRowsSelectTheirEvent :
    [0x0#4, 0x3#4, 0x4#4, 0x8#4, 0x9#4].map (fun ev => (opcodeRows.filter (·.covers ev)).map OpcodeRow.mnemonic) =
    [["START"], ["START"], ["ALARM"], ["EDGE_FALL"], ["EDGE_RISE"]] := by decide

theorem witness_DecodeEncodeAgree :
    decode ⟨0x3#4, 7#64, testCfg⟩ = .ok (.start true true 7#64 testCfg) ∧
    isStart (.start true true 7#64 testCfg) = true ∧
    decode ⟨0x9#4, 7#64, testCfg⟩ = .ok (.edgeRise 7#64) := by decide

/-- Each event admitted at the boundary: `NOW` equal to the previous one, the alarm at its very value. -/
theorem witness_EventsEnabledExactly :
    isNext (exec (.start false false 15069#64 testCfg) readyState) = true ∧
    isNext (exec (.alarm 11000#64) hostState) = true ∧
    isNext (exec (.edgeFall 1000#64) deviceState) = true ∧
    isNext (exec (.edgeRise 1000#64) deviceState) = true ∧
    isStart (.alarm 0#64) = false := by decide

theorem witness_DisabledEventsRefusedByName :
    hostState.alarmPending = true ∧ deviceState.alarmPending = false ∧ (10999#64 : Counter) < hostState.alarmVal ∧
    State.reset.edgeSub = false := ⟨rfl, rfl, by decide, rfl⟩

theorem witness_NowNeverGoesBack :
    (Instr.edgeRise 999#64).now < deviceState.lastNow ∧ isNext (exec (.edgeRise 1000#64) deviceState) = true := by
  decide

/-- START's premises, at `NOW` equal to the previous one, in a complete read and in a read abandoned in
the middle (S7). -/
theorem witness_StartBeginsARead :
    (readyState.alarmPending = false ∧ readyState.lastNow ≤ 15069#64) ∧
    (deviceState.alarmPending = false ∧ deviceState.lastNow ≤ 1000#64) := by decide

theorem witness_StartReturnsTheErrorMask : State.reset.alarmPending = false ∧ State.reset.lastNow ≤ 0#64 :=
  ⟨rfl, by decide⟩

theorem witness_StartRefusedOnlyWhileAlarmPending :
    (hostState.lastNow ≤ 10400#64 ∧ hostState.alarmPending = true) ∧
    (deviceState.lastNow ≤ 1000#64 ∧ deviceState.alarmPending = false) := by decide

/-- S2, then ALARM (A5). -/
theorem witness_NoEdgeAfterFailedEdgeRegistration :
    (∃ s0 t, exec (.start true false 10000#64 testCfg) State.reset = .next s0 ∧
      runEvents [.alarm 11001#64] s0 = .next t) ∧
    withinRead [.alarm 11001#64] = true ∧ isEdge (.edgeFall 11001#64) = true :=
  ⟨read_exists (by decide), by decide, by decide⟩

/-- S3, then a falling and a rising edge. -/
theorem witness_LineHeldLowAfterFailedTimerRegistration :
    (∃ s0 t, exec (.start false true 10000#64 testCfg) State.reset = .next s0 ∧
      runEvents [.edgeFall 10100#64, .edgeRise 10200#64] s0 = .next t) ∧
    withinRead [.edgeFall 10100#64, .edgeRise 10200#64] = true := ⟨read_exists (by decide), by decide⟩

theorem witness_AlarmHandsTheLineOver :
    hostState.alarmPending = true ∧ hostState.alarmVal ≤ 11000#64 ∧ hostState.lastNow ≤ 11000#64 := by decide

/-- After an ALARM, and after a START whose timer registration failed. -/
theorem witness_AlarmIsSingleShot :
    (∃ s0 t, exec (.alarm 11000#64) hostState = .next s0 ∧ runEvents [.edgeRise 11100#64] s0 = .next t) ∧
    (∃ s0 t, exec (.start true true 500#64 testCfg) State.reset = .next s0 ∧ runEvents [] s0 = .next t) ∧
    withinRead [.edgeRise 11100#64] = true := ⟨read_exists (by decide), read_exists (by decide), by decide⟩

/-- The earliest ALARM, across the wrap of the stamp (S9, A8). -/
theorem witness_AlarmAtLeastHostLowAfterStart :
    (∃ s0 t u, exec (.start false false 4294966796#64 testCfg) readyState = .next s0 ∧
      runEvents [.edgeRise 4294966900#64] s0 = .next t ∧ exec (.alarm 4294967796#64) t = .next u) ∧
    withinRead [.edgeRise 4294966900#64] = true ∧ (4294966796#64 : Counter).toNat + 1000 < 2 ^ 64 ∧
    (4294967796#64 : Counter).toNat - (4294966796#64 : Counter).toNat < 2 ^ 32 := by
  refine ⟨?_, by decide, by decide, by decide⟩
  obtain ⟨s0, u, h0, hu⟩ := read_exists (i := .start false false 4294966796#64 testCfg)
    (is := [.edgeRise 4294966900#64, .alarm 4294967796#64]) (s := readyState) (by decide)
  obtain ⟨t, ht, hu⟩ := (runEvents_cons_next_iff ..).1 hu
  obtain ⟨u', hu', -⟩ := (runEvents_cons_next_iff ..).1 hu
  exact ⟨s0, t, u', h0, (runEvents_cons_next_iff ..).2 ⟨t, ht, rfl⟩, hu'⟩

theorem witness_EdgeRiseRecordsTheStampOnly : deviceState.edgeSub = true ∧ deviceState.lastNow ≤ 1000#64 := by decide

/-- Both sync values. -/
theorem witness_SyncFallOnlyAdvances : ∀ b ∈ [0xFE#8, 0xFF#8],
    { deviceState with bitIndex := b }.edgeSub = true ∧ { deviceState with bitIndex := b }.lastNow ≤ 1000#64 ∧
    ({ deviceState with bitIndex := b }.bitIndex = 0xFE#8 ∨ { deviceState with bitIndex := b }.bitIndex = 0xFF#8) := by
  decide

/-- Both ends of the excess range. -/
theorem witness_ExcessFallSetsOverflowOnly : ∀ b ∈ [40#8, 253#8],
    { readyState with bitIndex := b }.edgeSub = true ∧ { readyState with bitIndex := b }.lastNow ≤ 15069#64 ∧
    40 ≤ { readyState with bitIndex := b }.bitIndex.toNat ∧ { readyState with bitIndex := b }.bitIndex.toNat ≤ 253 := by
  decide

/-- Both ends of the window of a 1, at the first and the last position, before and after Ready. -/
theorem witness_OneBitFallSetsItsBit : ([1068#64, 1075#64] : List Counter).all (fun now : Counter => decide (
    68 ≤ (now.setWidth 32 - deviceState.lastDevicePullUpTime).toNat ∧
    (now.setWidth 32 - deviceState.lastDevicePullUpTime).toNat ≤ 75 ∧
    deviceState.edgeSub = true ∧ deviceState.lastNow ≤ now ∧ deviceState.bitIndex.toNat < 40 ∧
    { deviceState with bitIndex := 39#8 }.bitIndex.toNat < 40 ∧ deviceState.bitIndex ≠ 39#8 ∧
    flag .ready { deviceState with bitIndex := 39#8, statusFlags := 0x83#8 } = true)) = true := by decide

/-- Both ends of the window of a 0. -/
theorem witness_ZeroBitFallWritesNothing : ([1022#64, 1029#64] : List Counter).all (fun now : Counter => decide (
    22 ≤ (now.setWidth 32 - deviceState.lastDevicePullUpTime).toNat ∧
    (now.setWidth 32 - deviceState.lastDevicePullUpTime).toNat ≤ 29 ∧
    deviceState.edgeSub = true ∧ deviceState.lastNow ≤ now ∧ deviceState.bitIndex.toNat < 40 ∧
    deviceState.bitIndex ≠ 39#8)) = true := by decide

/-- The four intervals just outside the windows, and 0. -/
theorem witness_MalformedFallSetsReadError : ([1000#64, 1021#64, 1030#64, 1067#64, 1076#64] : List Counter).all (fun now : Counter => decide (
    ¬ (68 ≤ (now.setWidth 32 - deviceState.lastDevicePullUpTime).toNat ∧
       (now.setWidth 32 - deviceState.lastDevicePullUpTime).toNat ≤ 75) ∧
    ¬ (22 ≤ (now.setWidth 32 - deviceState.lastDevicePullUpTime).toNat ∧
       (now.setWidth 32 - deviceState.lastDevicePullUpTime).toNat ≤ 29) ∧
    deviceState.edgeSub = true ∧ deviceState.lastNow ≤ now ∧ deviceState.bitIndex.toNat < 40 ∧
    deviceState.bitIndex ≠ 39#8)) = true := by decide

theorem witness_EveryFallAdvancesByOne :
    { readyState with bitIndex := 255#8 }.edgeSub = true ∧ { readyState with bitIndex := 255#8 }.lastNow ≤ 15069#64 := by
  decide

/-- The completing edge, and two that complete nothing: at another position, and at 39 after Ready (X4). -/
theorem witness_CompletionOnFirstReachingForty :
    deviceState.edgeSub = true ∧ deviceState.lastNow ≤ 1000#64 ∧
    ({ deviceState with bitIndex := 39#8 }.bitIndex = 39#8 ∧ flag .ready { deviceState with bitIndex := 39#8 } = false) ∧
    ¬ ({ deviceState with bitIndex := 38#8 }.bitIndex = 39#8 ∧
      flag .ready { deviceState with bitIndex := 38#8 } = false) ∧
    ¬ ({ readyState with bitIndex := 39#8 }.bitIndex = 39#8 ∧
      flag .ready { readyState with bitIndex := 39#8 } = false) := by decide

/-- A byte that the edge does not resolve a bit of: another byte, and any byte at a sync value. -/
theorem witness_FallLeavesTheRestAlone :
    deviceState.edgeSub = true ∧ deviceState.lastNow ≤ 1000#64 ∧
    ¬ (deviceState.bitIndex.toNat < 40 ∧ (1 : BufAddr).val = deviceState.bitIndex.toNat / 8) ∧
    ¬ (hostState.bitIndex.toNat < 40 ∧ (0 : BufAddr).val = hostState.bitIndex.toNat / 8) := by decide

/-- An interval across the wrap of the stamp, and the longest one allowed. -/
theorem witness_RiseThenFallJudgesTheTrueInterval :
    deviceState.edgeSub = true ∧ deviceState.lastNow ≤ 4294967280#64 ∧ deviceState.bitIndex.toNat < 40 ∧
    ShortInterval 4294967280#64 4294967350#64 ∧ ShortInterval 1000#64 4294968295#64 := by
  simp [ShortInterval, deviceState]

/-- Each clause at the ends of its range. -/
theorem witness_PositionClassByWrapTest :
    (0#8).toNat < 40 ∧ (39#8).toNat < 40 ∧
    (40 ≤ (254#8).toNat ∧ (254#8 : BitIdx) + 2#8 < 254#8) ∧ (40 ≤ (255#8).toNat ∧ (255#8 : BitIdx) + 2#8 < 255#8) ∧
    (40 ≤ (40#8).toNat ∧ ¬ (40#8 : BitIdx) + 2#8 < 40#8) ∧ (40 ≤ (253#8).toNat ∧ ¬ (253#8 : BitIdx) + 2#8 < 253#8) ∧
    ((40#8 : BitIdx) + 2#8).toNat = 42 := by decide

/-- Each row at the ends of its range (V4 to V7). -/
theorem witness_SymbolTableByRow :
    [0, 21, 22, 29, 30, 67, 68, 75, 76, 4294967295].map (fun n => symbol (BitVec.ofNat 32 n)) =
    [.err, .err, .bit0, .bit0, .err, .err, .bit1, .bit1, .err, .err] := by decide

/-- The first address outside the buffer. -/
theorem witness_CallerReadsTheBuffer : 5 ≤ 5 := by decide

/-- The invariant holds in a state that a START has left. -/
theorem hostState_inv : Inv hostState where
  bufferForm := by decide
  bufferWritten := fun _ => by decide
  validReady := fun _ => by decide
  unreadyPosition := fun _ => by decide
  overflowReady := fun _ => by decide
  alarmHost := fun _ => by decide
  alarmStamp := fun _ => by decide
  hostLine := fun _ => by decide
  deviceLine := fun _ => by decide
  doneReady := fun _ h => by cases h
  errMasked := fun m h => by
    injection h with h
    rw [← h]
    decide

/-- The invariant holds at a data position. -/
theorem deviceState_inv : Inv deviceState where
  bufferForm := by decide
  bufferWritten := fun _ => by decide
  validReady := fun _ => by decide
  unreadyPosition := fun _ => by decide
  overflowReady := fun _ => by decide
  alarmHost := fun h => by cases h
  alarmStamp := fun h => by cases h
  hostLine := fun _ => by decide
  deviceLine := fun _ => by decide
  doneReady := fun _ h => by cases h
  errMasked := fun _ h => by cases h

/-- The invariant does not look at the events that wait. -/
theorem inv_waiting {s : State} (i : Instr) (h : Inv s) : Inv (waiting i s) :=
  ⟨h.1, h.2, h.3, h.4, h.5, h.6, h.7, h.8, h.9, h.10, h.11⟩

/-- An ALARM in the Host phase, and a falling edge that resolves a 1. -/
theorem witness_EveryStepKeepsTheInvariant :
    (Inv (waiting (.alarm 11003#64) hostState) ∧ ∃ t, step (waiting (.alarm 11003#64) hostState) = .next t) ∧
    (Inv (waiting (.edgeFall 1070#64) deviceState) ∧ ∃ t, step (waiting (.edgeFall 1070#64) deviceState) = .next t) :=
  ⟨⟨inv_waiting _ hostState_inv, (isNext_iff _).1 (by decide)⟩,
    ⟨inv_waiting _ deviceState_inv, (isNext_iff _).1 (by decide)⟩⟩

/-- The completing edge, in the Device phase. -/
theorem witness_EveryStepKeepsTheReadPhase :
    ReadPhase (waiting (.edgeFall 1026#64) { deviceState with bitIndex := 39#8 }) ∧
    (∀ e rest i, (waiting (.edgeFall 1026#64) { deviceState with bitIndex := 39#8 }).trace = e :: rest →
      decode e = .ok i → HostPhaseQuiet i (waiting (.edgeFall 1026#64) { deviceState with bitIndex := 39#8 })) ∧
    ∃ t, step (waiting (.edgeFall 1026#64) { deviceState with bitIndex := 39#8 }) = .next t :=
  ⟨.inr (.inl (by decide)), fun _ _ _ _ _ _ => by decide, (isNext_iff _).1 (by decide)⟩

theorem witness_StartEntersTheHostPhase : readyState.alarmPending = false ∧ readyState.lastNow ≤ 15069#64 := by decide

/-- A short read: START, ALARM, two sync edges, a 1 and a 0 (program A's head, the first bit a 1). -/
def shortRead : List Instr :=
  [.alarm 11003#64, .edgeFall 11033#64, .edgeRise 11113#64, .edgeFall 11193#64, .edgeRise 11243#64,
   .edgeFall 11313#64, .edgeRise 11363#64, .edgeFall 11389#64]

theorem shortRead_exists :
    ∃ s0 t, exec (.start false false 10000#64 testCfg) State.reset = .next s0 ∧ runEvents shortRead s0 = .next t :=
  read_exists (by decide)

/-- The short read meets the premises, and its four intervals are what the counter counts. -/
theorem witness_PositionCountsFallingEdges :
    (∃ s0 t, exec (.start false false 10000#64 testCfg) State.reset = .next s0 ∧
      runEvents shortRead s0 = .next t) ∧
    withinRead shortRead = true ∧ (fallIntervals shortRead 7#32).length = 4 := ⟨shortRead_exists, by decide, by decide⟩

/-- The short read meets the premises; its intervals 2 and 3 are the frame's bits 0 and 1. -/
theorem witness_BufferPacksTheMeasuredBits :
    (∃ s0 t, exec (.start false false 10000#64 testCfg) State.reset = .next s0 ∧
      runEvents shortRead s0 = .next t) ∧
    withinRead shortRead = true ∧ FewFalls shortRead State.reset.lastDevicePullUpTime ∧
    ((fallIntervals shortRead 7#32).map BitVec.toNat).drop 1 = [80, 70, 26] :=
  ⟨shortRead_exists, by decide, by
    show (fallIntervals shortRead State.reset.lastDevicePullUpTime).length ≤ 258
    decide, by decide⟩

theorem witness_BufferIsMonotoneWithinARead :
    isStart (.edgeFall 1070#64) = false ∧ ∃ t, exec (.edgeFall 1070#64) deviceState = .next t :=
  ⟨rfl, (isNext_iff _).1 (by decide)⟩

/-- A state with every flag but PhaseHost set, and the Host phase; an edge and an ALARM. -/
theorem witness_FlagsAccumulateWithinARead :
    (isStart (.edgeFall 1070#64) = false ∧
      ∃ t, exec (.edgeFall 1070#64) { deviceState with statusFlags := 0xFB#8 } = .next t) ∧
    (isStart (.edgeRise 10001#64) = false ∧ ∃ t, exec (.edgeRise 10001#64) hostState = .next t ∧
      flag .phaseHost t = true) ∧
    flag .gpioRegisterError { deviceState with statusFlags := 0xFB#8 } = true :=
  ⟨⟨rfl, (isNext_iff _).1 (by decide)⟩, ⟨rfl, _, rfl, by decide⟩, by decide⟩

/-- One event of each kind. -/
theorem witness_ErrorFlagsRaisedExactly :
    (∃ t, exec (.start true true 15069#64 testCfg) readyState = .next t) ∧
    (∃ t, exec (.alarm 11000#64) hostState = .next t) ∧
    (∃ t, exec (.edgeRise 1000#64) deviceState = .next t) ∧
    (∃ t, exec (.edgeFall 1021#64) deviceState = .next t) :=
  ⟨(isNext_iff _).1 (by decide), (isNext_iff _).1 (by decide), (isNext_iff _).1 (by decide),
    (isNext_iff _).1 (by decide)⟩

/-- Two edges after a complete read (X1). -/
theorem witness_ReadyIsTerminal :
    flag .ready readyState = true ∧ withinRead [.edgeRise 15119#64, .edgeFall 15145#64] = true ∧
    ∃ t, runEvents [.edgeRise 15119#64, .edgeFall 15145#64] readyState = .next t :=
  ⟨by decide, by decide, (isNext_iff _).1 (by decide)⟩

/-- K1: the edge that completes a valid frame. -/
theorem witness_ValidOnlyWithReadyAndChecksum :
    ∃ t, exec (.edgeFall 1026#64) { deviceState with bitIndex := 39#8, dataBuffer := bytes 0x55 0x55 0x55 0x55 0x54 } =
        .next t ∧
      flag .valid { deviceState with bitIndex := 39#8, dataBuffer := bytes 0x55 0x55 0x55 0x55 0x54 } = false ∧
      flag .valid t = true := by
  have h : after (exec (.edgeFall 1026#64)
      { deviceState with bitIndex := 39#8, dataBuffer := bytes 0x55 0x55 0x55 0x55 0x54 }) (flag .valid) = some true := by
    decide
  obtain ⟨t, ht⟩ := (isNext_iff (exec (.edgeFall 1026#64)
    { deviceState with bitIndex := 39#8, dataBuffer := bytes 0x55 0x55 0x55 0x55 0x54 })).1 (by decide)
  rw [ht] at h
  exact ⟨t, ht, by decide, Option.some.inj h⟩

/-- One event for each clause: an edge, which is neither START nor ALARM; and the pull-up once on. -/
theorem witness_EachRegisterHasItsWriter :
    (∃ t, exec (.edgeFall 1070#64) deviceState = .next t) ∧ isStart (.edgeFall 1070#64) = false ∧
    isEdge (.edgeFall 1070#64) = true ∧ (∀ now, Instr.edgeFall 1070#64 ≠ .alarm now) ∧
    (∀ now, Instr.edgeFall 1070#64 ≠ .edgeRise now) ∧ (∀ now, Instr.alarm 11000#64 ≠ .edgeFall now) ∧
    (∃ t, exec (.alarm 11000#64) hostState = .next t) ∧ deviceState.linePu = true :=
  ⟨(isNext_iff _).1 (by decide), rfl, rfl, by simp, by simp, by simp, (isNext_iff _).1 (by decide), rfl⟩

end Sys2Proof.Machine.Tests
end

/-! The step (00_scope.md R13, R16): what it does where an event waits, and where none does. -/

namespace Sys2Proof.Machine

/-- The oldest event is the one on the ports. -/
theorem nextEvent_of_trace_cons {s : State} {e : EventInput} {rest : List EventInput} (ht : s.trace = e :: rest) :
    nextEvent s = some (e, { s with trace := rest }) := by
  simp only [nextEvent, ht]

/-- Whatever the outcome is, a refusal by the operation itself included; `step_next_iff` speaks of
`.next` outcomes only. -/
theorem step_of_decode_ok {s : State} {e : EventInput} {rest : List EventInput} {i : Instr}
    (ht : s.trace = e :: rest) (hd : decode e = .ok i) : step s = exec i { s with trace := rest } := by
  simp only [step, nextEvent_of_trace_cons ht, hd]

/-- Settles O1: the waiting event is the one the step takes, and its decoding selects the operation. -/
theorem stepRunsDecodedEvent : Obligations.StepRunsDecodedEvent :=
  fun _ _ _ _ ht hd => step_of_decode_ok ht hd

/-- Settles O2: the idle case of what a step can do. -/
theorem idleStepChangesNothing : Obligations.IdleStepChangesNothing :=
  fun s ht => (step_next_iff s s).2 (.inl ⟨ht, rfl⟩)

end Sys2Proof.Machine

/-! Who may change what (10_state.md R21 to R48): the registers and flags that each event leaves alone,
and the one moment at which Ready and Valid are written. -/

namespace Sys2Proof.Machine

/-! ## The frame of EDGE_FALL -/

/-- EDGE_FALL writes none of the registers that R162 lists as unchanged. -/
theorem fallFrame_of_exec_edgeFall {now : Counter} {s t : State} (h : exec (.edgeFall now) s = .next t) :
    FallFrame s t := by
  obtain ⟨-, -, rfl⟩ := (exec_edgeFall_next_iff now s t).1 h
  rw [fallBody_eq]
  constructor <;> rfl

/-! ## What EDGE_FALL does to the flags (42_edge_decoder.md R162 to R174) -/

/-- Completion clears PhaseDevice, and nothing else of EDGE_FALL clears a flag. -/
theorem flag_fallBody_of_flag {f : Flag} (hf : f ≠ .phaseDevice) (now : Counter) {s : State} (h : flag f s = true) :
    flag f (fallBody now s) = true := by
  have hc : flag f (classifyFall (elapsed now s.lastDevicePullUpTime) s) = true := by simp [flag_classifyFall, h]
  rw [flag_fallBody]
  split
  · cases f with
    | phaseDevice => exact absurd rfl hf
    | ready => rfl
    | valid => simp [h]
    | phaseHost | gpioRegisterError | timerRegisterError | bitReadError | bitOverflowError => exact hc
  · exact hc

/-- EDGE_FALL does not touch PhaseHost. -/
@[simp] theorem flag_phaseHost_fallBody (now : Counter) (s : State) :
    flag .phaseHost (fallBody now s) = flag .phaseHost s := by
  simp [flag_fallBody, flag_classifyFall]

/-- EDGE_FALL sets Ready exactly where it takes the position from 39 to 40. -/
theorem flag_ready_fallBody_iff (now : Counter) (s : State) :
    flag .ready (fallBody now s) = true ↔ flag .ready s = true ∨ s.bitIndex = 39#8 := by
  rw [flag_fallBody]
  split
  next h => simp [h]
  next h => simpa [flag_classifyFall] using h

/-- The bytes that completion validates are the bytes EDGE_FALL leaves: nothing after the classification
writes the buffer (R162). -/
theorem checksumMatches_fallBody (now : Counter) (s : State) :
    checksumMatches (fallBody now s) = checksumMatches (classifyFall (elapsed now s.lastDevicePullUpTime) s) := by
  simp only [checksumMatches, fallBody, memRead_completeIfDone, advance_memRead]

/-- EDGE_FALL evaluates the checksum only where it sets Ready (R172, R173). -/
theorem flag_valid_fallBody_iff (now : Counter) (s : State) :
    flag .valid (fallBody now s) = true ↔ flag .valid s = true ∨
      (s.bitIndex = 39#8 ∧ flag .ready s = false ∧ checksumMatches (fallBody now s) = true) := by
  rw [checksumMatches_fallBody, flag_fallBody]
  split
  next h => simp [h]
  next h =>
    simp only [flag_classifyFall]
    simpa using fun hb hr _ => absurd ⟨hb, hr⟩ h

/-- The checksum test compares the integer sum with byte 4 modulo 256 (30_encoding.md R108). -/
theorem checksumMatches_iff_modEq (s : State) :
    checksumMatches s = true ↔
      (memRead 0 s).toNat + (memRead 1 s).toNat + (memRead 2 s).toNat + (memRead 3 s).toNat ≡
        (memRead 4 s).toNat [MOD 256] := by
  have hlt : (memRead 4 s).toNat < 256 := (memRead 4 s).isLt
  simp [checksumMatches, sum8, ← BitVec.toNat_inj, Nat.ModEq, Nat.mod_eq_of_lt hlt]

/-! ## The statements -/

/-- Settles O41: ALARM clears PhaseHost and sets PhaseDevice, completion clears PhaseDevice, and nothing
else within a read clears a flag or sets PhaseHost. -/
theorem flagsAccumulateWithinARead : Obligations.FlagsAccumulateWithinARead := by
  intro i s t hi h
  cases i with
  | start gf tf now cfg => nomatch hi
  | alarm now =>
    obtain ⟨-, -, rfl⟩ := (exec_alarm_next_iff now s t).1 h
    exact ⟨fun f hH _ hf => by simp [flag_alarmBody, hH, hf], fun hH => by simp [flag_alarmBody] at hH⟩
  | edgeFall now =>
    obtain ⟨-, -, rfl⟩ := (exec_edgeFall_next_iff now s t).1 h
    exact ⟨fun f _ hD hf => flag_fallBody_of_flag hD now hf, fun hH => by simpa using hH⟩
  | edgeRise now =>
    obtain ⟨-, -, rfl⟩ := (exec_edgeRise_next_iff now s t).1 h
    exact ⟨fun f _ _ hf => hf, fun hH => hH⟩

/-- One event after Ready: Ready stays, Valid is not evaluated again, no notification is raised
(10_state.md R31, R32; 42_edge_decoder.md R174). -/
theorem exec_keeps_ready {i : Instr} {s t : State} (hi : isStart i = false) (hr : flag .ready s = true)
    (h : exec i s = .next t) : flag .ready t = true ∧ flag .valid t = flag .valid s ∧ t.done = none := by
  cases i with
  | start gf tf now cfg => nomatch hi
  | alarm now =>
    obtain ⟨-, -, rfl⟩ := (exec_alarm_next_iff now s t).1 h
    exact ⟨by simp [flag_alarmBody, hr], by simp [flag_alarmBody], rfl⟩
  | edgeFall now =>
    obtain ⟨-, -, rfl⟩ := (exec_edgeFall_next_iff now s t).1 h
    have hvalid := flag_valid_fallBody_iff now (beginEvent now s)
    exact ⟨(flag_ready_fallBody_iff now _).2 (.inl hr), Bool.eq_iff_iff.2 (by simpa [hr] using hvalid),
      by simp [fallBody_done, hr]⟩
  | edgeRise now =>
    obtain ⟨-, -, rfl⟩ := (exec_edgeRise_next_iff now s t).1 h
    exact ⟨hr, rfl, rfl⟩

/-- Settles O43: the first event of the run clears the notification of the state before it, and from then
on every event keeps all three. -/
theorem readyIsTerminal : Obligations.ReadyIsTerminal := by
  intro is s t hr hw hne h
  obtain ⟨i, rest, rfl⟩ := List.exists_cons_of_ne_nil hne
  obtain ⟨hi, hw⟩ := (withinRead_cons i rest).1 hw
  obtain ⟨u, hu, h⟩ := (runEvents_cons_next_iff i rest s t).1 h
  refine runEvents_induction (P := fun v => flag .ready v = true ∧ flag .valid v = flag .valid s ∧ v.done = none)
    (fun j v w hj hv hvw => ?_) hw (exec_keeps_ready hi hr hu) h
  obtain ⟨hready, hvalid, -⟩ := hv
  obtain ⟨hready', hvalid', hdone'⟩ := exec_keeps_ready hj hready hvw
  exact ⟨hready', hvalid'.trans hvalid, hdone'⟩

/-- Settles O44: only the completing EDGE_FALL can set Valid, since START clears it and the other two
events keep it. -/
theorem validOnlyWithReadyAndChecksum : Obligations.ValidOnlyWithReadyAndChecksum := by
  intro i s t h hv hv'
  cases i with
  | start gf tf now cfg =>
    obtain ⟨-, -, rfl⟩ := (exec_start_next_iff gf tf now cfg s t).1 h
    simp [flag_startBody] at hv'
  | alarm now =>
    obtain ⟨-, -, rfl⟩ := (exec_alarm_next_iff now s t).1 h
    simp [flag_alarmBody, hv] at hv'
  | edgeFall now =>
    obtain ⟨-, -, rfl⟩ := (exec_edgeFall_next_iff now s t).1 h
    rcases (flag_valid_fallBody_iff now _).1 hv' with hold | ⟨hb, hr, hsum⟩
    · simp [hv] at hold
    · exact ⟨hr, (flag_ready_fallBody_iff now _).2 (.inr hb), hb, (checksumMatches_iff_modEq _).1 hsum⟩
  | edgeRise now =>
    obtain ⟨-, -, rfl⟩ := (exec_edgeRise_next_iff now s t).1 h
    simp [hv] at hv'

/-- Settles O45: each event's outcome, field by field, against the registers it does not own. -/
theorem eachRegisterHasItsWriter : Obligations.EachRegisterHasItsWriter := by
  intro i s t h
  cases i with
  | start gf tf now cfg =>
    obtain ⟨-, -, rfl⟩ := (exec_start_next_iff gf tf now cfg s t).1 h
    rw [startBody_eq]
    exact ⟨nofun, fun _ => ⟨rfl, rfl⟩, fun _ => rfl, nofun, fun hp => hp, nofun, rfl⟩
  | alarm now =>
    obtain ⟨-, -, rfl⟩ := (exec_alarm_next_iff now s t).1 h
    exact ⟨fun _ => ⟨rfl, rfl, rfl, rfl, nofun⟩, fun hne => absurd rfl (hne now), fun _ => rfl, nofun,
      fun _ => rfl, fun _ _ => ⟨rfl, fun _ => rfl⟩, rfl⟩
  | edgeFall now =>
    have hf := fallFrame_of_exec_edgeFall h
    exact ⟨fun _ => ⟨hf.hostPullDownTime, hf.cfg, hf.edgeSub, hf.alarmVal, hf.alarmPending.symm.trans⟩,
      fun _ => ⟨hf.hostPullUpTime, hf.linePu⟩, fun _ => hf.lastDevicePullUpTime,
      fun _ => ⟨hf.lineOe, hf.lineOut, hf.alarmPending⟩, hf.linePu.trans,
      fun hne => absurd rfl (hne now), hf.trace⟩
  | edgeRise now =>
    obtain ⟨-, -, rfl⟩ := (exec_edgeRise_next_iff now s t).1 h
    exact ⟨fun _ => ⟨rfl, rfl, rfl, rfl, fun hp => hp⟩, fun _ => ⟨rfl, rfl⟩, fun hne => absurd rfl (hne now),
      fun _ => ⟨rfl, rfl, rfl⟩, fun hp => hp, fun _ _ => ⟨rfl, fun _ => rfl⟩, rfl⟩

end Sys2Proof.Machine

/-! The result buffer and the trace (20_memory.md R63, R68): what the bit-set primitive does to each byte
and to each bit, and the events of a trace taken one to a step. -/

namespace Sys2Proof.Machine

/-! ## The bit-set primitive -/

/-- The byte of a bit address, on numbers (R63). -/
theorem eq_byteAddr_iff (a : BufAddr) (n : BitAddr) : a = byteAddr n ↔ a.val = n.val / 8 := Fin.ext_iff

/-- The bit addresses number the buffer's bits, eight to a byte, most significant first (R62). -/
theorem bitAddr_eq_iff (a : BufAddr) (j : Fin 8) (n : BitAddr) :
    8 * a.val + j.val = n.val ↔ a = byteAddr n ∧ j.val = n.val % 8 := by
  rw [eq_byteAddr_iff]
  omega

/-- Bit by bit: the bit-set primitive sets the bit that its address names and keeps the others. -/
theorem getLsbD_memRead_setBit (n : BitAddr) (a : BufAddr) (j : Fin 8) (s : State) :
    (memRead a (setBit n s)).getLsbD (7 - j.val) =
      (decide (8 * a.val + j.val = n.val) || (memRead a s).getLsbD (7 - j.val)) := by
  rw [memRead_setBit]
  by_cases ha : a = byteAddr n
  · simp only [bitAddr_eq_iff, ha, if_true, true_and, BitVec.getLsbD_or, bitMask_getLsbD, Bool.or_comm]
  · simp [bitAddr_eq_iff, ha]

/-- Settles O29: byte by byte from read after write, bit by bit from the bits of the mask. -/
theorem setBitSetsOneBit : Obligations.SetBitSetsOneBit :=
  fun n s => ⟨fun a => by simp only [memRead_setBit, eq_byteAddr_iff, bitMask],
    fun a j => getLsbD_memRead_setBit n a j s⟩

/-! ## The events of a trace, one to a step -/

/-- The decoder reads back what the encoder writes (30_encoding.md R91 to R93). -/
@[simp] theorem decode_encode (i : Instr) : decode (encode i) = .ok i := by
  cases i with
  | start gf tf now cfg =>
    cases gf <;> cases tf <;>
      simp [decode, encode, encodeWord, encodeCfg, evBit, Instr.now, fieldKindHi, fieldKindLo, fieldA, fieldB]
  | alarm now | edgeFall now | edgeRise now =>
    simp [decode, encode, encodeWord, Instr.now, fieldKindHi, fieldKindLo, fieldA, fieldB]

/-- A step with an encoded event on the ports: the event's outcome where none else waits, with the rest of
the trace put back. -/
theorem step_encode_cons (i : Instr) (rest : List EventInput) (s : State) :
    step { s with trace := encode i :: rest } =
      (match exec i { s with trace := [] } with
        | .next t => .next { t with trace := rest }
        | .fault r => .fault r
        | .refused r => .refused r) :=
  (step_of_decode_ok rfl (decode_encode i)).trans (exec_trace i { s with trace := [] } rest)

/-- An operation run where no event waits leaves none waiting. -/
theorem trace_nil_of_exec {i : Instr} {s t : State} (h : exec i { s with trace := [] } = .next t) :
    { t with trace := [] } = t := by
  have hx := exec_trace i { s with trace := [] } []
  simpa only [h, Host.Outcome.next.injEq, eq_comm] using hx

/-- Settles O6, by induction on the trace: the first step is the first event, and where it is admitted the
state it leaves has the rest of the trace waiting. -/
theorem stepsFollowTheTrace : Obligations.StepsFollowTheTrace := by
  intro is
  induction is with
  | nil => exact fun _ => rfl
  | cons i is ih =>
    intro s
    rw [List.length_cons, core_run_succ, List.map_cons, step_encode_cons, runEvents]
    cases h : exec i { s with trace := [] } with
    | next t =>
      exact (ih t).trans (by rw [trace_nil_of_exec h])
    | fault r => rfl
    | refused r => rfl

end Sys2Proof.Machine

/-! The encoding and its operands (30_encoding.md R94 to R107): which events are admitted, the order of
their times, the two tables an edge is judged by, and the interval between two edges. -/

namespace Sys2Proof.Machine

/-! ## The interval between a rising and a falling edge (R103, R105) -/

/-- The subtraction of stamps gives the true interval while that is shorter than the stamp's period, also
where the stamp wraps between the two edges (premise H7). -/
theorem toNat_elapsed_of_shortInterval {rise fall : Counter} (h : ShortInterval rise fall) :
    (elapsed fall (rise.setWidth 32)).toNat = fall.toNat - rise.toNat := by
  obtain ⟨hle, hlt⟩ := h
  rw [elapsed_eq]
  bv_omega

@[simp] theorem bufferBit_beginEvent (now : Counter) (n : BitAddr) (s : State) :
    bufferBit n (beginEvent now s) = bufferBit n s := rfl

@[simp] theorem bufferBit_stampRise (now : Counter) (n : BitAddr) (s : State) :
    bufferBit n (stampRise now s) = bufferBit n s := rfl

@[simp] theorem bufferBit_recordError (f : Flag) (n : BitAddr) (s : State) :
    bufferBit n (recordError f s) = bufferBit n s := rfl

/-- The bit-set primitive on the buffer's bits: one bit becomes 1, the other 39 stay. -/
theorem bufferBit_setBit (m n : BitAddr) (s : State) :
    bufferBit n (setBit m s) = (bufferBit n s || decide (n = m)) := by
  have haddr : 8 * (byteAddr n).val + n.val % 8 = n.val := Nat.div_add_mod n.val 8
  have hbit := getLsbD_memRead_setBit m (byteAddr n) ⟨n.val % 8, Nat.mod_lt _ (by decide)⟩ s
  rw [haddr, Bool.or_comm] at hbit
  simpa only [bufferBit, Fin.ext_iff] using hbit

/-- The buffer's bits after EDGE_FALL: only a BIT1 writes, and only the bit at the position, which is a bit
of the buffer in the data-bit window alone (R165 to R169). -/
theorem bufferBit_fallBody (now : Counter) (n : BitAddr) (s : State) :
    bufferBit n (fallBody now s) = (bufferBit n s ||
      decide (n.val = s.bitIndex.toNat ∧ symbol (elapsed now s.lastDevicePullUpTime) = .bit1)) := by
  have hclass : bufferBit n (fallBody now s) =
      bufferBit n (classifyFall (elapsed now s.lastDevicePullUpTime) s) := by
    simp only [bufferBit, fallBody, memRead_completeIfDone, advance_memRead]
  rw [hclass]
  rcases posClass_cases s.bitIndex with ⟨h, hc⟩ | ⟨h, hc⟩ | ⟨h, -, hc⟩ <;> simp only [classifyFall, hc]
  · cases symbol (elapsed now s.lastDevicePullUpTime) with
    | bit0 => simp [recordSymbol]
    | bit1 => simp [recordSymbol, bufferBit_setBit, Fin.ext_iff]
    | err => simp [recordSymbol]
  · have hne : n.val ≠ s.bitIndex.toNat := by omega
    simp [hne]
  · have hne : n.val ≠ s.bitIndex.toNat := by omega
    simp [hne]

/-- EDGE_FALL raises BitReadError exactly on an ERR in the data-bit window (R167); completion leaves it. -/
theorem flag_bitReadError_fallBody (now : Counter) (s : State) :
    flag .bitReadError (fallBody now s) = (flag .bitReadError s ||
      decide (s.bitIndex.toNat < 40 ∧ symbol (elapsed now s.lastDevicePullUpTime) = .err)) := by
  simp [flag_fallBody, flag_classifyFall]

/-- Settles O28: the rising edge leaves its stamp, so the falling edge judges the true interval by the symbol
table. -/
theorem riseThenFallJudgesTheTrueInterval : Obligations.RiseThenFallJudgesTheTrueInterval := by
  intro rise fall s hsub hrise hshort h
  have hinterval := toNat_elapsed_of_shortInterval hshort
  refine ⟨stampRise rise (beginEvent rise s), _, (exec_edgeRise_next_iff ..).2 ⟨hsub, hrise, rfl⟩,
    (exec_edgeFall_next_iff ..).2 ⟨hsub, hshort.1, rfl⟩, fun n => ?_, ?_⟩
  · simp [bufferBit_fallBody, symbol_bit1_iff, hinterval, Fin.ext_iff]
  · simp [flag_bitReadError_fallBody, symbol_err_iff, hinterval, h]

/-! ## Admission (R94, R97) -/

theorem admitted_start_iff (gf tf : Bool) (now : Counter) (cfg : CommConfig) (s : State) :
    Admitted (.start gf tf now cfg) s ↔ s.alarmPending = false ∧ s.lastNow ≤ now := by
  simp [Admitted, exec_start_next_iff]

theorem admitted_alarm_iff (now : Counter) (s : State) :
    Admitted (.alarm now) s ↔ (s.alarmPending = true ∧ s.alarmVal ≤ now) ∧ s.lastNow ≤ now := by
  simp [Admitted, exec_alarm_next_iff]

theorem admitted_edgeFall_iff (now : Counter) (s : State) :
    Admitted (.edgeFall now) s ↔ s.edgeSub = true ∧ s.lastNow ≤ now := by
  simp [Admitted, exec_edgeFall_next_iff]

theorem admitted_edgeRise_iff (now : Counter) (s : State) :
    Admitted (.edgeRise now) s ↔ s.edgeSub = true ∧ s.lastNow ≤ now := by
  simp [Admitted, exec_edgeRise_next_iff]

/-- At power-on there is no subscription and no pending alarm (10_state.md R48). -/
theorem not_admitted_reset {i : Instr} (hi : isStart i = false) : ¬ Admitted i State.reset := by
  cases i with
  | start gf tf now cfg => nomatch hi
  | alarm now => simp [admitted_alarm_iff, State.reset]
  | edgeFall now => simp [admitted_edgeFall_iff, State.reset]
  | edgeRise now => simp [admitted_edgeRise_iff, State.reset]

/-- Settles O7: each event's admission, with the order of the times given. -/
theorem eventsEnabledExactly : Obligations.EventsEnabledExactly := by
  refine ⟨fun i s hnow => ?_, fun _ => not_admitted_reset⟩
  cases i with
  | start gf tf now cfg => exact (admitted_start_iff ..).trans (and_iff_left hnow)
  | alarm now => exact (admitted_alarm_iff ..).trans (and_iff_left hnow)
  | edgeFall now => exact (admitted_edgeFall_iff ..).trans (and_iff_left hnow)
  | edgeRise now => exact (admitted_edgeRise_iff ..).trans (and_iff_left hnow)

/-- Every event that is a step is in order and leaves its own time as the trace's (R94). -/
theorem lastNow_of_exec {i : Instr} {s t : State} (h : exec i s = .next t) :
    s.lastNow ≤ i.now ∧ t.lastNow = i.now := by
  cases i with
  | start gf tf now cfg =>
    obtain ⟨-, hnow, rfl⟩ := (exec_start_next_iff gf tf now cfg s t).1 h
    exact ⟨hnow, by rw [startBody_eq]; rfl⟩
  | alarm now =>
    obtain ⟨-, hnow, rfl⟩ := (exec_alarm_next_iff now s t).1 h
    exact ⟨hnow, rfl⟩
  | edgeFall now =>
    obtain ⟨-, hnow, rfl⟩ := (exec_edgeFall_next_iff now s t).1 h
    exact ⟨hnow, by rw [fallBody_eq]; rfl⟩
  | edgeRise now =>
    obtain ⟨-, hnow, rfl⟩ := (exec_edgeRise_next_iff now s t).1 h
    exact ⟨hnow, rfl⟩

/-- Settles O9: the order of the times and the time an event leaves, for every event at once. -/
theorem nowNeverGoesBack : Obligations.NowNeverGoesBack := by
  refine fun i s => ⟨fun hback ⟨t, ht⟩ => ?_, fun t ht => ?_⟩
  · exact BitVec.not_le.2 hback (lastNow_of_exec ht).1
  · obtain ⟨hle, heq⟩ := lastNow_of_exec ht
    exact ⟨heq ▸ hle, heq⟩

/-! ## The position classes and the symbol table (R103, R107) -/

/-- Adding 2 wraps exactly from 254 on (42_edge_decoder.md R170). -/
theorem add_two_lt_self_iff (b : BitIdx) : b + 2#8 < b ↔ 254 ≤ b.toNat := by
  constructor <;> intro h <;> bv_omega

/-- Settles O30: the wrap test tells the two sync values from the excess range. -/
theorem positionClassByWrapTest : Obligations.PositionClassByWrapTest := by
  intro b
  refine ⟨posClass_data, fun _ hwrap => posClass_sync ((add_two_lt_self_iff b).1 hwrap), fun h40 hwrap => ?_, ?_⟩
  · rw [add_two_lt_self_iff] at hwrap
    exact posClass_excess h40 (by omega)
  · rw [add_two_lt_self_iff]
    constructor <;> intro h <;> bv_omega

/-- Settles O31: each row lies inside the one window, or outside both. -/
theorem symbolTableByRow : Obligations.SymbolTableByRow := by
  intro e
  refine ⟨fun hhi => ?_, fun hlo hhi => ?_, fun hlo hhi => ?_, fun hlo hhi => ?_, fun hlo => ?_⟩
  · exact (symbol_err_iff e).2 (by omega)
  · exact (symbol_bit0_iff e).2 ⟨hlo, hhi⟩
  · exact (symbol_err_iff e).2 (by omega)
  · exact (symbol_bit1_iff e).2 ⟨hlo, hhi⟩
  · exact (symbol_err_iff e).2 (by omega)

end Sys2Proof.Machine

/-! The invariant of every step (10_state.md section 2; 20_memory.md section 1): each event's outcome keeps
it, and so does the machine's step. -/

namespace Sys2Proof.Machine

/-! ## What EDGE_FALL leaves of the clauses' registers -/

/-- The position after EDGE_FALL (42_edge_decoder.md R171). -/
@[simp] theorem fallBody_bitIndex (now : Counter) (s : State) : (fallBody now s).bitIndex = s.bitIndex + 1#8 := by
  rw [fallBody_eq]

/-- The buffer after EDGE_FALL is the buffer after its classification (R162). -/
@[simp] theorem fallBody_dataBuffer (now : Counter) (s : State) :
    (fallBody now s).dataBuffer = (classifyFall (elapsed now s.lastDevicePullUpTime) s).dataBuffer := by
  rw [fallBody_eq]

/-- EDGE_FALL raises BitOverflowError exactly in the excess range (R169); completion leaves it. -/
theorem flag_bitOverflowError_fallBody (now : Counter) (s : State) :
    flag .bitOverflowError (fallBody now s) = (flag .bitOverflowError s ||
      decide (40 ≤ s.bitIndex.toNat ∧ s.bitIndex.toNat ≤ 253)) := by
  simp [flag_fallBody, flag_classifyFall]

/-- EDGE_FALL never sets PhaseDevice: completion clears it, and nothing else of EDGE_FALL touches it (R172). -/
theorem flag_phaseDevice_of_fallBody {now : Counter} {s : State}
    (h : flag .phaseDevice (fallBody now s) = true) : flag .phaseDevice s = true := by
  rw [flag_fallBody] at h
  split at h
  · nomatch h
  · simpa [flag_classifyFall] using h

/-! ## Event by event -/

/-- START establishes every clause anew; of the prior state it uses the form of the buffer alone. -/
theorem inv_of_exec_start {gf tf : Bool} {now : Counter} {cfg : CommConfig} {s t : State} (h : Inv s)
    (hx : exec (.start gf tf now cfg) s = .next t) : Inv t := by
  obtain ⟨-, -, rfl⟩ := (exec_start_next_iff gf tf now cfg s t).1 hx
  have hflag := fun f => flag_startBody f gf tf now cfg (beginEvent now s)
  have heq := startBody_eq gf tf now cfg (beginEvent now s)
  generalize startBody gf tf now cfg (beginEvent now s) = t at hflag heq
  have hhost : flag .phaseHost t = true ∧ t.lineOe = true ∧ t.lineOut = false := ⟨hflag _, by simp [heq]⟩
  exact {
    bufferForm := by rw [heq]; exact zeroBuffer_wf (s := beginEvent now s) h.bufferForm
    bufferWritten := fun _ a => by simp only [heq, zeroBuffer_lookup, Option.isSome_some]
    validReady := fun _ hv => by simp [hflag] at hv
    unreadyPosition := fun _ _ => by simp [heq]
    overflowReady := fun _ ho => by simp [hflag] at ho
    alarmHost := fun _ => hhost
    alarmStamp := fun _ => by
      simp only [heq]
      bv_omega
    hostLine := fun _ _ => hhost.2
    deviceLine := fun _ hd => by simp [hflag] at hd
    doneReady := fun c hc => by simp [heq] at hc
    errMasked := fun m hm => by simpa [heq, eq_comm] using hm }

/-- ALARM leaves the Host phase, and the flags it writes are the two phases alone. -/
theorem inv_of_exec_alarm {now : Counter} {s t : State} (h : Inv s) (hx : exec (.alarm now) s = .next t) :
    Inv t := by
  obtain ⟨-, -, rfl⟩ := (exec_alarm_next_iff now s t).1 hx
  have hkeep : ∀ f, f ≠ .phaseHost → f ≠ .phaseDevice →
      flag f (alarmBody now (beginEvent now s)) = flag f s := fun f hH hD => by simp [flag_alarmBody, hH, hD]
  have hready := hkeep .ready nofun nofun
  exact {
    bufferForm := h.bufferForm
    bufferWritten := h.bufferWritten
    validReady := by rw [hready, hkeep .valid nofun nofun]; exact h.validReady
    unreadyPosition := by rw [hready]; exact h.unreadyPosition
    overflowReady := by rw [hready, hkeep .bitOverflowError nofun nofun]; exact h.overflowReady
    alarmHost := nofun
    alarmStamp := nofun
    hostLine := fun _ hH => by simp [flag_alarmBody] at hH
    deviceLine := fun _ _ => ⟨rfl, rfl⟩
    doneReady := nofun
    errMasked := nofun }

/-- EDGE_RISE writes its stamp, of which no clause speaks. -/
theorem inv_of_exec_edgeRise {now : Counter} {s t : State} (h : Inv s) (hx : exec (.edgeRise now) s = .next t) :
    Inv t := by
  obtain ⟨-, -, rfl⟩ := (exec_edgeRise_next_iff now s t).1 hx
  exact { h with doneReady := nofun, errMasked := nofun }

/-- EDGE_FALL: while Ready is 0 the position lies outside the excess range, so no overflow is raised, and
the advance leaves the sync values and the data positions only from 39, where Ready is set. -/
theorem inv_of_exec_edgeFall {now : Counter} {s t : State} (h : Inv s) (hx : exec (.edgeFall now) s = .next t) :
    Inv t := by
  have hf := fallFrame_of_exec_edgeFall hx
  obtain ⟨hsub, -, rfl⟩ := (exec_edgeFall_next_iff now s t).1 hx
  have hready := flag_ready_fallBody_iff now (beginEvent now s)
  simp only [beginEvent_flag, beginEvent_bitIndex] at hready
  exact {
    bufferForm := by
      rw [fallBody_dataBuffer]
      exact classifyFall_wf (s := beginEvent now s) _ h.bufferForm
    bufferWritten := fun _ a => by
      rw [fallBody_dataBuffer]
      exact lookup_isSome_classifyFall (s := beginEvent now s) _ (h.bufferWritten hsub a)
    validReady := fun _ hv => by
      rcases (flag_valid_fallBody_iff now _).1 hv with hold | ⟨h39, -, -⟩
      · exact hready.2 (.inl (h.validReady hsub hold))
      · exact hready.2 (.inr h39)
    unreadyPosition := fun _ hr => by
      rw [← Bool.not_eq_true, hready, not_or, Bool.not_eq_true] at hr
      obtain ⟨hr, h39⟩ := hr
      have hpos := h.unreadyPosition hsub hr
      simp only [fallBody_bitIndex, beginEvent_bitIndex]
      bv_omega
    overflowReady := fun _ ho => by
      refine hready.2 (.inl ?_)
      by_contra hr
      have hpos := h.unreadyPosition hsub (Bool.eq_false_of_not_eq_true hr)
      have hold : flag .bitOverflowError s = true := by
        have hexcess : ¬ (40 ≤ s.bitIndex.toNat ∧ s.bitIndex.toNat ≤ 253) := by omega
        simpa [flag_bitOverflowError_fallBody, hexcess] using ho
      exact hr (h.overflowReady hsub hold)
    alarmHost := by simpa [hf.alarmPending, hf.lineOe, hf.lineOut] using h.alarmHost
    alarmStamp := by simpa [hf.alarmPending, hf.alarmVal, hf.hostPullDownTime] using h.alarmStamp
    hostLine := by simpa [hf.edgeSub, hf.lineOe, hf.lineOut] using h.hostLine
    deviceLine := fun _ hd => by
      have hold := flag_phaseDevice_of_fallBody hd
      rw [hf.lineOe, hf.linePu]
      exact h.deviceLine hsub hold
    doneReady := fun c hc => by
      rw [fallBody_done] at hc
      split at hc
      next hdone =>
        obtain ⟨h39, -, hcb⟩ := hdone
        rw [hf.cfg]
        exact ⟨hready.2 (.inr h39), hcb, (Option.some.inj hc).symm⟩
      next => nomatch hc
    errMasked := fun m hm => by
      rw [hf.err] at hm
      nomatch hm }

/-- Every event keeps the invariant. -/
theorem inv_of_exec {i : Instr} {s t : State} (h : Inv s) (hx : exec i s = .next t) : Inv t := by
  cases i with
  | start gf tf now cfg => exact inv_of_exec_start h hx
  | alarm now => exact inv_of_exec_alarm h hx
  | edgeFall now => exact inv_of_exec_edgeFall h hx
  | edgeRise now => exact inv_of_exec_edgeRise h hx

/-- No clause of the invariant looks at the events that wait. -/
theorem inv_setTrace {s : State} (h : Inv s) (rest : List EventInput) : Inv { s with trace := rest } :=
  { h with }

/-- Settles O34: an idle step keeps the state, and any other step is an event's operation. -/
theorem everyStepKeepsTheInvariant : Obligations.EveryStepKeepsTheInvariant := by
  intro s t h hstep
  rcases (step_next_iff s t).1 hstep with ⟨-, rfl⟩ | ⟨e, rest, i, -, -, hx⟩
  · exact h
  · exact inv_of_exec (inv_setTrace h rest) hx

end Sys2Proof.Machine

/-! START (40_start.md R130 to R137) and the read it begins: the state it leaves, and what a failed
registration and the pending alarm keep true until the next START. -/

namespace Sys2Proof.Machine

/-! ## START itself -/

/-- START's status word: PhaseHost, with the registration errors (R130). -/
@[simp] theorem startBody_statusFlags (gf tf : Bool) (now : Counter) (cfg : CommConfig) (s : State) :
    (startBody gf tf now cfg s).statusFlags =
      0x04#8 ||| (if gf then 0x10#8 else 0#8) ||| (if tf then 0x20#8 else 0#8) := by
  rw [startBody_eq]

/-- START leaves every byte 0 (R130). -/
@[simp] theorem memRead_startBody (gf tf : Bool) (now : Counter) (cfg : CommConfig) (s : State) (a : BufAddr) :
    memRead a (startBody gf tf now cfg s) = 0#8 := by
  rw [startBody_eq]
  exact memRead_zeroBuffer a s

/-- The event word of START is `0b00 GF TF` (R130). -/
theorem decode_startWord (gf tf : Bool) (now : Counter) (cfg : CommConfig) :
    decode ⟨0b00#2 ++ BitVec.ofBool gf ++ BitVec.ofBool tf, now, cfg⟩ = .ok (.start gf tf now cfg) := by
  cases gf <;> cases tf <;> simp [decode, fieldKindHi, fieldKindLo, fieldA, fieldB]

/-- START with an alarm pending, whatever its time (R134). -/
theorem exec_start_of_alarmPending (gf tf : Bool) (now : Counter) (cfg : CommConfig) {s : State}
    (hp : s.alarmPending = true) : exec (.start gf tf now cfg) s = .refused .startWhileAlarmPending := by
  simp only [exec, execStart, takeEvent, startDisabled, hp, if_true]

/-- Settles O11: START's outcome, field by field. -/
theorem startBeginsARead : Obligations.StartBeginsARead := by
  intro gf tf now cfg s hp hnow
  have hbytes := memRead_startBody gf tf now cfg (beginEvent now s)
  refine ⟨decode_startWord gf tf now cfg, _, (exec_start_next_iff ..).2 ⟨hp, hnow, rfl⟩, ?_⟩
  rw [startBody_eq] at hbytes ⊢
  have hpending : (if tf then s.alarmPending else true) = !tf := by cases tf <;> simp [hp]
  exact ⟨rfl, rfl, hbytes, rfl, rfl, rfl, rfl, rfl, hpending, rfl, rfl, rfl, rfl, rfl, rfl, rfl, rfl⟩

/-- Settles O12: the mask is the error bits of the word that START leaves, of which only the two
registration errors can be set. -/
theorem startReturnsTheErrorMask : Obligations.StartReturnsTheErrorMask := by
  intro gf tf now cfg s hp hnow
  have hflag := fun f => flag_startBody f gf tf now cfg (beginEvent now s)
  have hword := startBody_statusFlags gf tf now cfg (beginEvent now s)
  have herr : (startBody gf tf now cfg (beginEvent now s)).err =
      some ((startBody gf tf now cfg (beginEvent now s)).statusFlags &&& 0xF0#8) := by
    rw [startBody_eq]
  refine ⟨_, _, (exec_start_next_iff ..).2 ⟨hp, hnow, rfl⟩, herr, rfl, ?_, ?_, ?_⟩
  · rw [hword]
    cases gf <;> cases tf <;> decide
  · simp only [hflag, hword]
    cases gf <;> cases tf <;> decide
  · rw [startFailed, herr, hword]
    cases gf <;> cases tf <;> decide

/-- Settles O13: the pending alarm is START's one disabling condition, and where it is admitted its outcome
does not depend on the prior flags, position and buffer. -/
theorem startRefusedOnlyWhileAlarmPending : Obligations.StartRefusedOnlyWhileAlarmPending := by
  intro gf tf now cfg s hnow
  refine ⟨exec_start_of_alarmPending gf tf now cfg, fun hp =>
    ⟨_, (exec_start_next_iff ..).2 ⟨hp, hnow, rfl⟩, ?_, ?_, memRead_startBody gf tf now cfg _⟩⟩
  · rw [startBody_statusFlags]
    cases gf <;> cases tf <;> decide
  · rw [startBody_eq]

/-! ## The read after a failed edge registration (R133; 60_exceptions.md R221) -/

/-- What a failed edge registration keeps true of the read. -/
def UnsubscribedUnready (s : State) : Prop := s.edgeSub = false ∧ flag .ready s = false

/-- Without a subscription no edge is admitted (42_edge_decoder.md R160). -/
theorem not_admitted_edge {i : Instr} {s : State} (hsub : s.edgeSub = false) (hi : isEdge i = true) :
    ¬ Admitted i s := by
  cases i with
  | start gf tf now cfg | alarm now => nomatch hi
  | edgeFall now => simp [admitted_edgeFall_iff, hsub]
  | edgeRise now => simp [admitted_edgeRise_iff, hsub]

/-- Within the read only ALARM is left, which touches neither. -/
theorem unsubscribedUnready_of_exec {i : Instr} {s t : State} (hi : isStart i = false)
    (h : UnsubscribedUnready s) (hx : exec i s = .next t) : UnsubscribedUnready t := by
  obtain ⟨hsub, hready⟩ := h
  cases i with
  | start gf tf now cfg => nomatch hi
  | alarm now =>
    obtain ⟨-, -, rfl⟩ := (exec_alarm_next_iff now s t).1 hx
    exact ⟨hsub, by simp [flag_alarmBody, hready]⟩
  | edgeFall now | edgeRise now => exact absurd ⟨t, hx⟩ (not_admitted_edge hsub rfl)

/-- Settles O14: the failed registration leaves no subscription and Ready 0, and the read keeps both. -/
theorem noEdgeAfterFailedEdgeRegistration : Obligations.NoEdgeAfterFailedEdgeRegistration := by
  intro tf now cfg s s0 t is i hstart hw hrun
  obtain ⟨-, -, rfl⟩ := (exec_start_next_iff true tf now cfg s s0).1 hstart
  have hbegin : UnsubscribedUnready (startBody true tf now cfg (beginEvent now s)) :=
    ⟨by rw [startBody_eq]; rfl, flag_startBody ..⟩
  obtain ⟨hsub, hready⟩ :=
    runEvents_induction (fun _ _ _ => unsubscribedUnready_of_exec) hw hbegin hrun
  exact ⟨hready, not_admitted_edge hsub⟩

/-! ## The read after a failed timer registration (R133; 60_exceptions.md R222) -/

/-- What a failed timer registration keeps true of the read: the Host phase without an alarm, the line
driven low, and the stamp of the last ALARM. -/
structure HostPhaseWithoutAlarm (pullUp : Stamp) (s : State) : Prop where
  alarmPending : s.alarmPending = false
  lineOe : s.lineOe = true
  lineOut : s.lineOut = false
  phaseHost : flag .phaseHost s = true
  hostPullUpTime : s.hostPullUpTime = pullUp

/-- Without a pending alarm no ALARM is admitted (41_phase_transition.md R151). -/
theorem not_admitted_alarm {s : State} (hp : s.alarmPending = false) (later : Counter) :
    ¬ Admitted (.alarm later) s := by
  simp [admitted_alarm_iff, hp]

/-- Within the read only edges are left, which write neither the line, the alarm nor PhaseHost. -/
theorem hostPhaseWithoutAlarm_of_exec {pullUp : Stamp} {i : Instr} {s t : State} (hi : isStart i = false)
    (h : HostPhaseWithoutAlarm pullUp s) (hx : exec i s = .next t) : HostPhaseWithoutAlarm pullUp t := by
  cases i with
  | start gf tf now cfg => nomatch hi
  | alarm now => exact absurd ⟨t, hx⟩ (not_admitted_alarm h.alarmPending now)
  | edgeFall now =>
    have hf := fallFrame_of_exec_edgeFall hx
    obtain ⟨-, -, rfl⟩ := (exec_edgeFall_next_iff now s t).1 hx
    exact ⟨hf.alarmPending.trans h.alarmPending, hf.lineOe.trans h.lineOe, hf.lineOut.trans h.lineOut,
      (flag_phaseHost_fallBody now _).trans h.phaseHost, hf.hostPullUpTime.trans h.hostPullUpTime⟩
  | edgeRise now =>
    obtain ⟨-, -, rfl⟩ := (exec_edgeRise_next_iff now s t).1 hx
    exact { h with }

/-- Settles O15: the failed registration leaves no alarm pending in the Host phase, and the read keeps it so. -/
theorem lineHeldLowAfterFailedTimerRegistration : Obligations.LineHeldLowAfterFailedTimerRegistration := by
  intro gf now later cfg s s0 t is hstart hw hrun
  obtain ⟨hp, -, rfl⟩ := (exec_start_next_iff gf true now cfg s s0).1 hstart
  have hbegin : HostPhaseWithoutAlarm s.hostPullUpTime (startBody gf true now cfg (beginEvent now s)) := by
    have hhost := flag_startBody .phaseHost gf true now cfg (beginEvent now s)
    rw [startBody_eq] at hhost ⊢
    exact ⟨hp, rfl, rfl, hhost, rfl⟩
  have h := runEvents_induction (fun _ _ _ => hostPhaseWithoutAlarm_of_exec) hw hbegin hrun
  exact ⟨not_admitted_alarm h.alarmPending later, h.lineOe, h.lineOut, h.phaseHost, h.hostPullUpTime⟩

/-! ## From START to ALARM (R136; 41_phase_transition.md R151) -/

/-- The pull-down stamp and the alarm's value as a START at `now` leaves them. -/
def StartedAt (now : Counter) (s : State) : Prop :=
  s.hostPullDownTime = now.setWidth 32 ∧ s.alarmVal = now + 1000#64

/-- START alone writes either register (10_state.md R21, R44). -/
theorem startedAt_of_exec {now : Counter} {i : Instr} {s t : State} (hi : isStart i = false)
    (h : StartedAt now s) (hx : exec i s = .next t) : StartedAt now t := by
  obtain ⟨hdown, hval⟩ := h
  obtain ⟨hwriters, -⟩ := eachRegisterHasItsWriter i s t hx
  obtain ⟨hdown', -, -, hval', -⟩ := hwriters hi
  exact ⟨hdown'.trans hdown, hval'.trans hval⟩

/-- Settles O18: ALARM waits for the value that START wrote, and its stamp is taken against START's. -/
theorem alarmAtLeastHostLowAfterStart : Obligations.AlarmAtLeastHostLowAfterStart := by
  intro gf tf now later cfg s s0 t u is hstart hw hrun halarm hwrap
  obtain ⟨-, -, rfl⟩ := (exec_start_next_iff gf tf now cfg s s0).1 hstart
  have hbegin : StartedAt now (startBody gf tf now cfg (beginEvent now s)) := by
    rw [startBody_eq]
    exact ⟨rfl, rfl⟩
  obtain ⟨hdown, hval⟩ := runEvents_induction (fun _ _ _ => startedAt_of_exec) hw hbegin hrun
  obtain ⟨⟨-, hdue⟩, -, rfl⟩ := (exec_alarm_next_iff later t u).1 halarm
  have hlow : now.toNat + 1000 ≤ later.toNat := by
    rw [hval] at hdue
    bv_omega
  refine ⟨hlow, fun hshort => ?_⟩
  have hinterval := toNat_elapsed_of_shortInterval ⟨Nat.le_of_add_right_le hlow, hshort⟩
  rw [← hinterval, elapsed_eq, ← hdown]
  rfl

end Sys2Proof.Machine

/-! ALARM (41_phase_transition.md R150 to R152): the state in which it hands the line to the device. -/

namespace Sys2Proof.Machine

/-- The event word of ALARM is `0b0100`; it carries no configuration (R150). -/
theorem decode_alarmWord (now : Counter) (cfg : CommConfig) : decode ⟨0x4#4, now, cfg⟩ = .ok (.alarm now) := by
  simp [decode, fieldKindHi, fieldKindLo, fieldA, fieldB]

/-- ALARM changes no byte of the buffer (R150). -/
@[simp] theorem memRead_alarmBody (a : BufAddr) (now : Counter) (s : State) :
    memRead a (alarmBody now s) = memRead a s := by
  simp only [alarmBody, disarmAlarm_memRead, setDirection_memRead, enablePullup_memRead, setLevel_memRead,
    setFlag_memRead, clearFlag_memRead, stampPullUp_memRead]

/-- Settles O16: ALARM's outcome, field by field. -/
theorem alarmHandsTheLineOver : Obligations.AlarmHandsTheLineOver := by
  intro now s hp hdue hnow
  have hbytes : ∀ a, memRead a (alarmBody now (beginEvent now s)) = memRead a s := fun a => by
    rw [memRead_alarmBody, beginEvent_memRead]
  refine ⟨decode_alarmWord now, _, (exec_alarm_next_iff ..).2 ⟨⟨hp, hdue⟩, hnow, rfl⟩, ?_⟩
  rw [alarmBody_eq] at hbytes ⊢
  exact ⟨rfl, rfl, rfl, rfl, rfl, rfl, rfl, rfl, rfl, hbytes, rfl, rfl, rfl, rfl, rfl, rfl, rfl⟩

end Sys2Proof.Machine

/-! The edge decoder (42_edge_decoder.md R160 to R174): what EDGE_RISE and EDGE_FALL leave, class by class, and
the completion of the frame. -/

namespace Sys2Proof.Machine

/-! ## EDGE_RISE (R161) -/

/-- The event word of EDGE_RISE is `0b1001`; it carries no configuration (R161). -/
theorem decode_edgeRiseWord (now : Counter) (cfg : CommConfig) :
    decode ⟨0x9#4, now, cfg⟩ = .ok (.edgeRise now) := by
  simp [decode, fieldKindHi, fieldKindLo, fieldA, fieldB]

/-- Settles O19: the rising edge's body is the one stamp. -/
theorem edgeRiseRecordsTheStampOnly : Obligations.EdgeRiseRecordsTheStampOnly :=
  fun now _ hsub hnow => ⟨decode_edgeRiseWord now, (exec_edgeRise_next_iff ..).2 ⟨hsub, hnow, rfl⟩⟩

/-! ## EDGE_FALL in every class -/

/-- With a subscription and `NOW` in order EDGE_FALL is a step (R160). -/
theorem exec_edgeFall_eq_next {now : Counter} {s : State} (hsub : s.edgeSub = true) (hnow : s.lastNow ≤ now) :
    exec (.edgeFall now) s = .next (fallBody now (beginEvent now s)) :=
  (exec_edgeFall_next_iff ..).2 ⟨hsub, hnow, rfl⟩

/-- Settles O25: the advance is no part of any branch. -/
theorem everyFallAdvancesByOne : Obligations.EveryFallAdvancesByOne :=
  fun now s hsub hnow => ⟨_, exec_edgeFall_eq_next hsub hnow, fallBody_bitIndex now (beginEvent now s)⟩

/-- Settles O27: the flags of the frame are neither an error of the edge decoder nor written by completion, and
the one write to the buffer goes to the byte of the position. -/
theorem fallLeavesTheRestAlone : Obligations.FallLeavesTheRestAlone := by
  intro now s hsub hnow
  have hexec := exec_edgeFall_eq_next hsub hnow
  refine ⟨_, hexec, fallFrame_of_exec_edgeFall hexec, (lastNow_of_exec hexec).2,
    flag_phaseHost_fallBody now _, ?_, ?_, fun a ha => ?_⟩
  · simp [flag_fallBody, flag_classifyFall]
  · simp [flag_fallBody, flag_classifyFall]
  · rw [memRead_fallBody, if_neg (fun ⟨hpos, _, hbyte⟩ => ha ⟨hpos, hbyte⟩), beginEvent_memRead]

/-! ## Completion (R172 to R174) -/

/-- The classification raises no notification. -/
@[simp] theorem classifyFall_done (e : Stamp) (s : State) : (classifyFall e s).done = s.done := by
  rw [classifyFall_eq]

/-- Every falling edge but the completing one is the classification and the advance, no more (R172). -/
theorem fallBody_of_not_completing {s : State} (h : ¬ (s.bitIndex = 39#8 ∧ flag .ready s = false)) (now : Counter) :
    fallBody now s = advance (classifyFall (elapsed now s.lastDevicePullUpTime) s) := by
  have hready : flag .ready (classifyFall (elapsed now s.lastDevicePullUpTime) s) = flag .ready s := by
    simp [flag_classifyFall]
  rw [fallBody, completeIfDone_advance, classifyFall_bitIndex, hready, if_neg h]

/-- Settles O26: the completing edge writes what completion writes, with the checksum of the buffer it leaves;
any other edge is classified and counted, which touches none of the four. -/
theorem completionOnFirstReachingForty : Obligations.CompletionOnFirstReachingForty := by
  intro now s hsub hnow
  refine ⟨_, exec_edgeFall_eq_next hsub hnow, fun ⟨h39, hready⟩ => ?_, fun hnot => ?_⟩
  · refine ⟨?_, ?_, ?_, ?_, ?_⟩
    · simp [h39]
    · simp [flag_fallBody, h39, hready]
    · exact (flag_ready_fallBody_iff now _).2 (.inr h39)
    · have hvalid := flag_valid_fallBody_iff now (beginEvent now s)
      rw [Bool.eq_iff_iff]
      simpa [h39, hready, checksumMatches, sum8] using hvalid
    · simp [fallBody_done, h39, hready]
  · rw [fallBody_of_not_completing (s := beginEvent now s) hnot]
    simp [flag_classifyFall]

/-! ## Outside the data-bit window: SYNC and OVF (R168, R169) -/

/-- A position outside the data-bit window does not complete the frame. -/
theorem not_completing_of_le {s : State} (h : 40 ≤ s.bitIndex.toNat) :
    ¬ (s.bitIndex = 39#8 ∧ flag .ready s = false) := by
  rintro ⟨h39, -⟩
  simp [h39] at h

/-- A sync pulse is classified without effect, whatever its interval (R168). -/
theorem classifyFall_sync {s : State} (h : 254 ≤ s.bitIndex.toNat) (e : Stamp) : classifyFall e s = s := by
  rw [classifyFall, posClass_sync h]

/-- An excess edge is classified as an overflow, whatever its interval (R169). -/
theorem classifyFall_excess {s : State} (h : 40 ≤ s.bitIndex.toNat) (h' : s.bitIndex.toNat ≤ 253) (e : Stamp) :
    classifyFall e s = recordError .bitOverflowError s := by
  rw [classifyFall, posClass_excess h h']

/-- Settles O20: neither classification nor completion acts on a sync pulse. -/
theorem syncFallOnlyAdvances : Obligations.SyncFallOnlyAdvances := by
  intro now s hsub hnow hpos
  have hsync : 254 ≤ s.bitIndex.toNat := by rcases hpos with h | h <;> simp [h]
  rw [exec_edgeFall_eq_next hsub hnow,
    fallBody_of_not_completing (s := beginEvent now s) (not_completing_of_le (Nat.le_trans (by decide) hsync)),
    classifyFall_sync (s := beginEvent now s) hsync]
  rfl

/-- Settles O21: beyond the frame only the overflow is recorded, and completion does not run. -/
theorem excessFallSetsOverflowOnly : Obligations.ExcessFallSetsOverflowOnly := by
  intro now s hsub hnow hlo hhi
  rw [exec_edgeFall_eq_next hsub hnow,
    fallBody_of_not_completing (s := beginEvent now s) (not_completing_of_le hlo),
    classifyFall_excess (s := beginEvent now s) hlo hhi]
  rfl

/-! ## In the data-bit window: BIT1, BIT0 and ERR (R165 to R167) -/

/-- A data position is classified by its interval's symbol (R165 to R167). -/
theorem classifyFall_data {s : State} (h : s.bitIndex.toNat < 40) (e : Stamp) :
    classifyFall e s = recordSymbol ⟨s.bitIndex.toNat, h⟩ (symbol e) s := by
  rw [classifyFall, posClass_data h]

/-- A symbol touches the status word only as ERR (R165 to R167). -/
@[simp] theorem recordSymbol_statusFlags (n : BitAddr) (sym : Symbol) (s : State) :
    (recordSymbol n sym s).statusFlags = if sym = .err then s.statusFlags ||| 0x40#8 else s.statusFlags := by
  cases sym <;> rfl

/-- What a falling edge leaves in the data-bit window whose interval stands for `sym`. -/
structure DataFall (sym : Symbol) (s t : State) : Prop where
  frame : FallFrame s t
  bitIndex : t.bitIndex = s.bitIndex + 1#8
  bytes : ∀ a : BufAddr, memRead a t =
    if sym = .bit1 ∧ a.val = s.bitIndex.toNat / 8
    then memRead a s ||| (0x80#8 >>> (s.bitIndex.toNat % 8)) else memRead a s
  /-- Short of completion, the flags and the notification. -/
  uncompleted : s.bitIndex ≠ 39#8 ∨ flag .ready s = true →
    t.statusFlags = (if sym = .err then s.statusFlags ||| 0x40#8 else s.statusFlags) ∧ t.done = none
  readError : flag .bitReadError t = (flag .bitReadError s || decide (sym = .err))
  overflow : flag .bitOverflowError t = flag .bitOverflowError s

/-- The three classes of the data-bit window at once. -/
theorem exec_edgeFall_data {now : Counter} {s : State} {sym : Symbol} (hsub : s.edgeSub = true)
    (hnow : s.lastNow ≤ now) (hpos : s.bitIndex.toNat < 40)
    (hsym : symbol (now.setWidth 32 - s.lastDevicePullUpTime) = sym) :
    ∃ t, exec (.edgeFall now) s = .next t ∧ DataFall sym s t := by
  have hexec := exec_edgeFall_eq_next hsub hnow
  have hexcess : ¬ 40 ≤ s.bitIndex.toNat := Nat.not_le.2 hpos
  refine ⟨_, hexec, fallFrame_of_exec_edgeFall hexec, fallBody_bitIndex now _, fun a => ?_, fun hnot => ?_, ?_, ?_⟩
  · simp [memRead_fallBody, elapsed_eq, hsym, hpos]
  · have hnot : ¬ (s.bitIndex = 39#8 ∧ flag .ready s = false) := by simpa [imp_iff_not_or] using hnot
    rw [fallBody_of_not_completing (s := beginEvent now s) hnot]
    refine ⟨?_, by simp⟩
    rw [classifyFall_data (s := beginEvent now s) hpos]
    simp [elapsed_eq, hsym]
  · simp [flag_bitReadError_fallBody, elapsed_eq, hsym, hpos]
  · simp [flag_bitOverflowError_fallBody, hexcess]

/-- Settles O22: the symbol is BIT1. -/
theorem oneBitFallSetsItsBit : Obligations.OneBitFallSetsItsBit := by
  intro now s hsub hnow hpos hlo hhi
  obtain ⟨t, hexec, hframe, hadvance, hbytes, hflags, hread, hover⟩ :=
    exec_edgeFall_data hsub hnow hpos ((symbol_bit1_iff _).2 ⟨hlo, hhi⟩)
  exact ⟨t, hexec, hframe, hadvance, by simpa using hbytes, by simpa using hflags, by simpa using hread, hover⟩

/-- Settles O23: the symbol is BIT0. -/
theorem zeroBitFallWritesNothing : Obligations.ZeroBitFallWritesNothing := by
  intro now s hsub hnow hpos hlo hhi
  obtain ⟨t, hexec, hframe, hadvance, hbytes, hflags, hread, hover⟩ :=
    exec_edgeFall_data hsub hnow hpos ((symbol_bit0_iff _).2 ⟨hlo, hhi⟩)
  exact ⟨t, hexec, hframe, hadvance, by simpa using hbytes, by simpa using hflags, by simpa using hread, hover⟩

/-- Settles O24: the symbol is ERR. -/
theorem malformedFallSetsReadError : Obligations.MalformedFallSetsReadError := by
  intro now s hsub hnow hpos hone hzero
  obtain ⟨t, hexec, hframe, hadvance, hbytes, hflags, hread, hover⟩ :=
    exec_edgeFall_data hsub hnow hpos ((symbol_err_iff _).2 ⟨hone, hzero⟩)
  exact ⟨t, hexec, hframe, hadvance, by simpa using hbytes, by simpa using hread, by simpa using hflags, hover⟩

end Sys2Proof.Machine

/-! Exceptions (60_exceptions.md R220 to R226): no step answers a fault, and each error flag is raised by its own
event alone. -/

namespace Sys2Proof.Machine

/-! ## Faults (R220) -/

/-- A reserved event word ends the run by its name (30_encoding.md R96). -/
theorem step_of_decode_error {s : State} {e : EventInput} {rest : List EventInput} {err : DecodeError}
    (ht : s.trace = e :: rest) (hd : decode e = .error err) : step s = .refused (refusalOf err) := by
  simp only [step, nextEvent_of_trace_cons ht, hd]

/-- Settles O10: a step is idle, a refusal of a reserved word, or the decoded event's operation. -/
theorem noStepFaults : Obligations.NoStepFaults := by
  intro s r hfault
  cases ht : s.trace with
  | nil => exact nomatch (idleStepChangesNothing s ht).symm.trans hfault
  | cons e rest =>
    cases hd : decode e with
    | ok i => exact exec_not_fault i _ r ((step_of_decode_ok ht hd).symm.trans hfault)
    | error err => exact nomatch (step_of_decode_error ht hd).symm.trans hfault

/-! ## The error flags (R221 to R226) -/

/-- ALARM writes the phase flags alone, which lie outside the error mask (41_phase_transition.md R150). -/
theorem alarmBody_statusFlags_and_errMask (now : Counter) (s : State) :
    (alarmBody now s).statusFlags &&& 0xF0#8 = s.statusFlags &&& 0xF0#8 := by
  simp [alarmBody_eq, BitVec.and_or_distrib_right, BitVec.and_assoc]

/-- EDGE_FALL leaves the registration errors: they are START's to raise (R221, R222). -/
theorem flag_fallBody_of_registerError {f : Flag} (hf : f = .gpioRegisterError ∨ f = .timerRegisterError)
    (now : Counter) (s : State) : flag f (fallBody now s) = flag f s := by
  rcases hf with rfl | rfl <;> simp [flag_fallBody, flag_classifyFall]

/-- Settles O42: START sets the registration errors and clears the other two, EDGE_FALL raises the decoder's two
errors, and the other events raise none. -/
theorem errorFlagsRaisedExactly : Obligations.ErrorFlagsRaisedExactly := by
  intro i s t h
  cases i with
  | start gf tf now cfg =>
    obtain ⟨-, -, rfl⟩ := (exec_start_next_iff gf tf now cfg s t).1 h
    have hflag := fun f => flag_startBody f gf tf now cfg (beginEvent now s)
    exact ⟨hflag _, hflag _, hflag _, hflag _⟩
  | alarm now =>
    obtain ⟨-, -, rfl⟩ := (exec_alarm_next_iff now s t).1 h
    exact alarmBody_statusFlags_and_errMask now (beginEvent now s)
  | edgeFall now =>
    obtain ⟨-, -, rfl⟩ := (exec_edgeFall_next_iff now s t).1 h
    refine ⟨flag_fallBody_of_registerError (.inl rfl) now _, flag_fallBody_of_registerError (.inr rfl) now _, ?_,
      flag_bitOverflowError_fallBody now _⟩
    have hread := flag_bitReadError_fallBody now (beginEvent now s)
    simpa only [symbol_err_iff, elapsed_eq, beginEvent_flag, beginEvent_bitIndex,
      beginEvent_lastDevicePullUpTime] using hread
  | edgeRise now =>
    obtain ⟨-, -, rfl⟩ := (exec_edgeRise_next_iff now s t).1 h
    rfl

end Sys2Proof.Machine

/-! The decoder of event words (30_encoding.md R90 to R96): what it reads from the word's four fields, and its
agreement with the encoder and with the opcode table. -/

namespace Sys2Proof.Machine

/-! ## The decoder by fields -/

/-- An event word is its four fields (R90). -/
theorem eventWord_eq_fields (ev : EventWord) :
    ev = BitVec.ofBool (fieldKindHi ev) ++ BitVec.ofBool (fieldKindLo ev) ++ BitVec.ofBool (fieldA ev) ++
      BitVec.ofBool (fieldB ev) := by
  revert ev
  decide

/-- The well-formedness test by fields. -/
theorem wellFormed_eq_fields (e : EventInput) :
    e.wellFormed = (!(fieldKindHi e.ev && fieldKindLo e.ev) &&
      (if !fieldKindHi e.ev && fieldKindLo e.ev then !fieldA e.ev && !fieldB e.ev else true) &&
      (if fieldKindHi e.ev && !fieldKindLo e.ev then !fieldA e.ev else true)) := rfl

/-- The decoder accepts a well-formed input and rejects any other as reserved, branch by branch (R96). -/
theorem decode_ok_or_reserved (e : EventInput) :
    (e.wellFormed = true ∧ ∃ i, decode e = .ok i) ∨
      (e.wellFormed = false ∧ decode e = .error (.reservedEventWord e.ev)) := by
  unfold decode
  split <;> simp [wellFormed_eq_fields, *]

/-- The encoder writes back the word, the time and, for START, the configuration that were decoded. -/
theorem encode_of_decode {e : EventInput} {i : Instr} (h : decode e = .ok i) :
    encodeWord i = e.ev ∧ i.now = e.now ∧ (isStart i = true → encodeCfg i = e.cfg) := by
  rw [eventWord_eq_fields e.ev]
  unfold decode at h
  split at h
  case h_1 hhi hlo =>
    obtain rfl := Except.ok.inj h
    rw [hhi, hlo]
    refine ⟨?_, rfl, fun _ => rfl⟩
    cases fieldA e.ev <;> cases fieldB e.ev <;> rfl
  case h_2 hhi hlo ha hb | h_5 hhi hlo ha hb | h_6 hhi hlo ha hb =>
    obtain rfl := Except.ok.inj h
    rw [hhi, hlo, ha, hb]
    exact ⟨rfl, rfl, nofun⟩
  case h_3 | h_4 | h_7 | h_8 => nomatch h

/-- Settles O5: the encoder's two agreements with the decoder, and the decoder's two cases. -/
theorem decodeEncodeAgree : Obligations.DecodeEncodeAgree := by
  refine ⟨decode_encode, fun e i h => encode_of_decode h, fun e => ?_⟩
  rcases decode_ok_or_reserved e with ⟨hwf, hok⟩ | ⟨hwf, herr⟩
  · exact ⟨fun _ => hwf, fun _ => hok⟩
  · simp [hwf, herr]

/-! ## The sixteen event words (R95, R96) -/

/-- The event word of EDGE_FALL is `0b1000`; it carries no configuration (R93). -/
theorem decode_edgeFallWord (now : Counter) (cfg : CommConfig) :
    decode ⟨0x8#4, now, cfg⟩ = .ok (.edgeFall now) := by
  simp [decode, fieldKindHi, fieldKindLo, fieldA, fieldB]

/-- The check looks at the event word alone (R90). -/
theorem wellFormed_eq_of_word (ev : EventWord) (now : Counter) (cfg : CommConfig) :
    EventInput.wellFormed ⟨ev, now, cfg⟩ = EventInput.wellFormed ⟨ev, 0, zeroConfig⟩ := rfl

/-- The nine reserved words are ill formed (R96). -/
theorem wellFormed_of_reserved {ev : EventWord}
    (h : ev ∈ [0x5#4, 0x6#4, 0x7#4, 0xA#4, 0xB#4, 0xC#4, 0xD#4, 0xE#4, 0xF#4]) (now : Counter) (cfg : CommConfig) :
    EventInput.wellFormed ⟨ev, now, cfg⟩ = false := by
  rw [wellFormed_eq_of_word]
  revert ev
  decide

/-- Settles O3: the seven words of the operations, and the reserved words by their ill-formedness. -/
theorem eventWordsMeanTheirOperation : Obligations.EventWordsMeanTheirOperation := by
  rintro ⟨ev, now, cfg⟩
  refine ⟨?_, ?_, ?_, ?_, ?_, ?_, ?_, fun hreserved s rest htrace => ?_⟩
  · rintro rfl; exact decode_startWord false false now cfg
  · rintro rfl; exact decode_startWord false true now cfg
  · rintro rfl; exact decode_startWord true false now cfg
  · rintro rfl; exact decode_startWord true true now cfg
  · rintro rfl; exact decode_alarmWord now cfg
  · rintro rfl; exact decode_edgeFallWord now cfg
  · rintro rfl; exact decode_edgeRiseWord now cfg
  · rcases decode_ok_or_reserved ⟨ev, now, cfg⟩ with ⟨hwf, -⟩ | ⟨-, herr⟩
    · nomatch (wellFormed_of_reserved hreserved now cfg).symm.trans hwf
    · exact step_of_decode_error htrace herr

/-! ## The opcode table (R91 to R95) -/

/-- The word of a START row is `0b00xx` (R91). -/
theorem ev_of_covers_start {ev : EventWord} (h : OpcodeRow.covers ⟨"START", 0b0000, 0b1100⟩ ev = true) :
    ∃ gf tf, ev = 0b00#2 ++ BitVec.ofBool gf ++ BitVec.ofBool tf := by
  revert ev
  decide

/-- A row whose mask selects all four bits covers its value alone (R92, R93). -/
theorem ev_of_covers_fullMask {m : String} {v ev : EventWord} (h : OpcodeRow.covers ⟨m, v, 0b1111⟩ ev = true) :
    ev = v := by
  have hand : ev &&& BitVec.allOnes 4 = v := beq_iff_eq.1 h
  rwa [BitVec.and_allOnes] at hand

/-- A word that a row covers decodes to that row's event. -/
theorem exists_decode_of_covers {e : EventInput} {r : OpcodeRow} (hr : r ∈ opcodeRows) (hc : r.covers e.ev = true) :
    ∃ i, decode e = .ok i ∧ mnemonicOf i = r.mnemonic := by
  obtain ⟨ev, now, cfg⟩ := e
  simp only [opcodeRows, List.mem_cons, List.not_mem_nil, or_false] at hr
  obtain rfl | rfl | rfl | rfl := hr
  · obtain ⟨gf, tf, rfl⟩ := ev_of_covers_start hc
    exact ⟨_, decode_startWord _ _ now cfg, rfl⟩
  · obtain rfl := ev_of_covers_fullMask hc
    exact ⟨_, decode_alarmWord now cfg, rfl⟩
  · obtain rfl := ev_of_covers_fullMask hc
    exact ⟨_, decode_edgeFallWord now cfg, rfl⟩
  · obtain rfl := ev_of_covers_fullMask hc
    exact ⟨_, decode_edgeRiseWord now cfg, rfl⟩

/-- No two rows of the table share a mnemonic. -/
theorem opcodeRow_eq_of_mnemonic : ∀ r ∈ opcodeRows, ∀ q ∈ opcodeRows, r.mnemonic = q.mnemonic → r = q := by
  decide

/-- Settles O4: two rows that cover one word name the one event it decodes to. -/
theorem tableRowsSelectTheirEvent : Obligations.TableRowsSelectTheirEvent := by
  refine ⟨fun e r hr hc => exists_decode_of_covers hr hc, fun ev r hr q hq hcr hcq => ?_⟩
  obtain ⟨i, hi, hmr⟩ := exists_decode_of_covers (e := ⟨ev, 0, zeroConfig⟩) hr hcr
  obtain ⟨j, hj, hmq⟩ := exists_decode_of_covers (e := ⟨ev, 0, zeroConfig⟩) hq hcq
  obtain rfl : i = j := Except.ok.inj (hi.symm.trans hj)
  exact opcodeRow_eq_of_mnemonic r hr q hq (hmr.symm.trans hmq)

end Sys2Proof.Machine

/-! The phases of a read (10_state.md R39): each event's outcome keeps them while no edge comes in the Host
phase (premise H2), and none but START arms the alarm (41_phase_transition.md R152). -/

namespace Sys2Proof.Machine

/-- Short of completion and outside the excess range, EDGE_FALL touches no flag but BitReadError
(42_edge_decoder.md R165 to R169). -/
theorem flag_fallBody_of_unfinished {f : Flag} (hf : f ≠ .bitReadError) {s : State} (h39 : s.bitIndex ≠ 39#8)
    (hpos : s.bitIndex.toNat < 40 ∨ 254 ≤ s.bitIndex.toNat) (now : Counter) :
    flag f (fallBody now s) = flag f s := by
  have hexcess : ¬ (40 ≤ s.bitIndex.toNat ∧ s.bitIndex.toNat ≤ 253) := by omega
  simp [fallBody_of_not_completing (fun h => h39 h.1), flag_classifyFall, hf, hexcess]

/-- START enters the Host phase, whatever the phase before it. -/
theorem readPhase_of_exec_start {gf tf : Bool} {now : Counter} {cfg : CommConfig} {s t : State}
    (hx : exec (.start gf tf now cfg) s = .next t) : ReadPhase t ∧ flag .phaseHost t = true := by
  obtain ⟨-, -, rfl⟩ := (exec_start_next_iff gf tf now cfg s t).1 hx
  have hflag := fun f => flag_startBody f gf tf now cfg (beginEvent now s)
  have hpos : (startBody gf tf now cfg (beginEvent now s)).bitIndex = 0xFE#8 := by rw [startBody_eq]
  exact ⟨.inl ⟨hflag _, hflag _, hflag _, hflag _, hflag _, hflag _, hpos⟩, hflag _⟩

/-- An alarm is pending in the Host phase alone, so ALARM goes from there to the Device phase, the position
still at the first sync value. -/
theorem readPhase_of_exec_alarm {now : Counter} {s t : State} (h : ReadPhase s)
    (hx : exec (.alarm now) s = .next t) : ReadPhase t := by
  obtain ⟨⟨hp, -⟩, -, rfl⟩ := (exec_alarm_next_iff now s t).1 hx
  have hflag := fun f => flag_alarmBody f now (beginEvent now s)
  rcases h with ⟨-, -, hready, hvalid, -, hover, hpos⟩ | ⟨-, -, -, -, -, hidle, -⟩ | ⟨-, -, -, hidle⟩
  · have hsync : 254 ≤ s.bitIndex.toNat := by simp [hpos]
    exact .inr (.inl ⟨hflag _, hflag _, by simp [hflag, hready], by simp [hflag, hvalid], by simp [hflag, hover],
      rfl, .inr hsync⟩)
  · nomatch hidle.symm.trans hp
  · nomatch hidle.symm.trans hp

/-- EDGE_RISE writes its stamp, of which no phase speaks. -/
theorem readPhase_of_exec_edgeRise {now : Counter} {s t : State} (h : ReadPhase s)
    (hx : exec (.edgeRise now) s = .next t) : ReadPhase t := by
  obtain ⟨-, -, rfl⟩ := (exec_edgeRise_next_iff now s t).1 hx
  exact h

/-- EDGE_FALL stays in the Device phase short of position 39, completes the read there, and leaves a complete
read complete. -/
theorem readPhase_of_exec_edgeFall {now : Counter} {s t : State} (h : ReadPhase s)
    (hquiet : flag .phaseHost s = false) (hx : exec (.edgeFall now) s = .next t) : ReadPhase t := by
  have hf := fallFrame_of_exec_edgeFall hx
  obtain ⟨-, -, rfl⟩ := (exec_edgeFall_next_iff now s t).1 hx
  have hhost : flag .phaseHost (fallBody now (beginEvent now s)) = false := by simpa using hquiet
  rcases h with ⟨hhost', -⟩ | ⟨-, hdevice, hready, hvalid, hover, hidle, hpos⟩ | ⟨-, hdevice, hready, hidle⟩
  · nomatch hquiet.symm.trans hhost'
  · by_cases h39 : s.bitIndex = 39#8
    · have hdone : flag .phaseDevice (fallBody now (beginEvent now s)) = false := by
        simp [flag_fallBody, h39, hready]
      exact .inr (.inr ⟨hhost, hdone, (flag_ready_fallBody_iff now _).2 (.inr h39),
        hf.alarmPending.trans hidle⟩)
    · have hkeep : ∀ f, f ≠ .bitReadError → flag f (fallBody now (beginEvent now s)) = flag f s :=
        fun f hne => flag_fallBody_of_unfinished (s := beginEvent now s) hne h39 hpos now
      have hpos' : (s.bitIndex + 1#8).toNat < 40 ∨ 254 ≤ (s.bitIndex + 1#8).toNat := by bv_omega
      exact .inr (.inl ⟨hhost, (hkeep .phaseDevice nofun).trans hdevice, (hkeep .ready nofun).trans hready,
        (hkeep .valid nofun).trans hvalid, (hkeep .bitOverflowError nofun).trans hover,
        hf.alarmPending.trans hidle, by rwa [fallBody_bitIndex]⟩)
  · have hdevice' : flag .phaseDevice (fallBody now (beginEvent now s)) = false :=
      Bool.eq_false_of_not_eq_true fun hd => by
        have hold := flag_phaseDevice_of_fallBody hd
        simp [hdevice] at hold
    exact .inr (.inr ⟨hhost, hdevice', (flag_ready_fallBody_iff now _).2 (.inl hready),
      hf.alarmPending.trans hidle⟩)

/-- Every event keeps the phases of a read inside premise H2. -/
theorem readPhase_of_exec {i : Instr} {s t : State} (h : ReadPhase s) (hquiet : HostPhaseQuiet i s)
    (hx : exec i s = .next t) : ReadPhase t := by
  cases i with
  | start gf tf now cfg => exact (readPhase_of_exec_start hx).1
  | alarm now => exact readPhase_of_exec_alarm h hx
  | edgeFall now => exact readPhase_of_exec_edgeFall h (hquiet rfl) hx
  | edgeRise now => exact readPhase_of_exec_edgeRise h hx

/-- Settles O36: an idle step keeps the state, and any other step is an event's operation. No phase speaks of
the events that wait. -/
theorem everyStepKeepsTheReadPhase : Obligations.EveryStepKeepsTheReadPhase := by
  intro s t h hquiet hstep
  rcases (step_next_iff s t).1 hstep with ⟨-, rfl⟩ | ⟨e, rest, i, htrace, hdecode, hx⟩
  · exact h
  · exact readPhase_of_exec (s := { s with trace := rest }) h (hquiet e rest i htrace hdecode) hx

/-- Settles O37: START is admitted, and the phase it leaves does not depend on the one before it. -/
theorem startEntersTheHostPhase : Obligations.StartEntersTheHostPhase := by
  intro gf tf now cfg s hp hnow
  have hx := (exec_start_next_iff gf tf now cfg s _).2 ⟨hp, hnow, rfl⟩
  exact ⟨_, hx, readPhase_of_exec_start hx⟩

/-! ## The single shot of the alarm (41_phase_transition.md R152) -/

/-- Nothing but START arms the alarm (10_state.md R44). -/
theorem alarmPending_eq_false_of_exec {i : Instr} {s t : State} (hi : isStart i = false)
    (hp : s.alarmPending = false) (hx : exec i s = .next t) : t.alarmPending = false := by
  obtain ⟨hwriters, -⟩ := eachRegisterHasItsWriter i s t hx
  obtain ⟨-, -, -, -, harm⟩ := hwriters hi
  exact Bool.eq_false_iff.2 fun hp' => nomatch hp.symm.trans (harm hp')

/-- Settles O17: both events leave no alarm pending, and the read arms none. -/
theorem alarmIsSingleShot : Obligations.AlarmIsSingleShot := by
  intro s s0 t is later i hi hx hw hrun
  have hbegin : s0.alarmPending = false := by
    cases i with
    | start gf tf now cfg =>
      obtain ⟨hp, -, rfl⟩ := (exec_start_next_iff gf tf now cfg s s0).1 hx
      obtain rfl : tf = true := hi
      rw [startBody_eq]
      exact hp
    | alarm now =>
      obtain ⟨-, -, rfl⟩ := (exec_alarm_next_iff now s s0).1 hx
      rfl
    | edgeFall now | edgeRise now => exact hi.elim
  exact not_admitted_alarm (runEvents_induction (fun _ _ _ => alarmPending_eq_false_of_exec) hw hbegin hrun) later

end Sys2Proof.Machine

/-! What a read's falling edges make of the position, of Ready and of the buffer (20_memory.md R67, R73;
42_edge_decoder.md R177): one invariant over the intervals measured so far. -/

namespace Sys2Proof.Machine

/-! ## The intervals of a run (30_encoding.md R104, R105) -/

/-- The intervals of a trace, event by event: the state that the first event leaves holds the rising edge that
the rest is measured from. -/
theorem fallIntervals_cons_of_exec {i : Instr} {s t : State} (hx : exec i s = .next t) (is : List Instr) :
    fallIntervals (i :: is) s.lastDevicePullUpTime =
      fallIntervals [i] s.lastDevicePullUpTime ++ fallIntervals is t.lastDevicePullUpTime := by
  cases i with
  | start gf tf now cfg =>
    obtain ⟨-, -, rfl⟩ := (exec_start_next_iff gf tf now cfg s t).1 hx
    rw [startBody_eq]
    rfl
  | alarm now =>
    obtain ⟨-, -, rfl⟩ := (exec_alarm_next_iff now s t).1 hx
    rfl
  | edgeFall now =>
    rw [(fallFrame_of_exec_edgeFall hx).lastDevicePullUpTime]
    rfl
  | edgeRise now =>
    obtain ⟨-, -, rfl⟩ := (exec_edgeRise_next_iff now s t).1 hx
    rfl

/-- What ALARM and EDGE_RISE keep, and EDGE_FALL keeps with its interval added, every run inside a read keeps
with the run's intervals added. -/
theorem runEvents_induction_fallIntervals {P : List Stamp → State → Prop}
    (halarm : ∀ now es s t, P es s → exec (.alarm now) s = .next t → P es t)
    (hfall : ∀ now es s t, P es s → exec (.edgeFall now) s = .next t →
      P (es ++ [elapsed now s.lastDevicePullUpTime]) t)
    (hrise : ∀ now es s t, P es s → exec (.edgeRise now) s = .next t → P es t)
    {is : List Instr} {es : List Stamp} {s u : State} (hw : withinRead is = true) (hs : P es s)
    (hr : runEvents is s = .next u) : P (es ++ fallIntervals is s.lastDevicePullUpTime) u := by
  induction is generalizing es s with
  | nil =>
    simp only [runEvents, Host.Outcome.next.injEq] at hr
    simpa [fallIntervals, hr] using hs
  | cons i is ih =>
    obtain ⟨hi, hw⟩ := (withinRead_cons i is).1 hw
    obtain ⟨t, ht, hr⟩ := (runEvents_cons_next_iff i is s u).1 hr
    rw [fallIntervals_cons_of_exec ht, ← List.append_assoc]
    refine ih hw ?_ hr
    cases i with
    | start gf tf now cfg => nomatch hi
    | alarm now => simpa [fallIntervals] using halarm now es s t hs ht
    | edgeFall now => exact hfall now es s t hs ht
    | edgeRise now => simpa [fallIntervals] using hrise now es s t hs ht

/-! ## The read so far -/

/-- What the falling edges of a read so far, which measured `es`, have made of the state. The bits are those of
the intervals after the two sync pulses, as long as the position has not come round to the frame again
(premise H8). -/
structure ReadSoFar (es : List Stamp) (s : State) : Prop where
  position : s.bitIndex = 254#8 + BitVec.ofNat 8 es.length
  ready : flag .ready s = true ↔ 42 ≤ es.length
  bits : es.length ≤ 258 → ∀ n : BitAddr, bufferBit n s = true ↔ ∃ e ∈ es[n.val + 2]?, symbol e = .bit1

/-- START begins the read: no falling edge, the position two before the frame, the buffer zero (R65, R130). -/
theorem readSoFar_of_exec_start {gf tf : Bool} {now : Counter} {cfg : CommConfig} {s t : State}
    (hx : exec (.start gf tf now cfg) s = .next t) : ReadSoFar [] t := by
  obtain ⟨-, -, rfl⟩ := (exec_start_next_iff gf tf now cfg s t).1 hx
  exact ⟨by rw [startBody_eq]; rfl, by simp [flag_startBody], fun _ n => by simp [bufferBit]⟩

/-- Position 39 is where the 42nd falling edge finds the read, and every 256th after it. -/
theorem position_eq_39_iff (k : Nat) : 254#8 + BitVec.ofNat 8 k = 39#8 ↔ k % 256 = 41 := by
  bv_omega

/-- Up to premise H8's last falling edge, the edges after the two sync pulses number the buffer's bits. -/
theorem eq_position_iff {k : Nat} (hk : k < 258) (n : BitAddr) :
    n.val = (254#8 + BitVec.ofNat 8 k).toNat ↔ n.val + 2 = k := by
  bv_omega

/-- Looking up in a list with one element added at its end. -/
theorem exists_mem_getElem?_concat {α : Type} {p : α → Prop} (es : List α) (e : α) (k : Nat) :
    (∃ x ∈ (es ++ [e])[k]?, p x) ↔ (∃ x ∈ es[k]?, p x) ∨ (k = es.length ∧ p e) := by
  rcases Nat.lt_trichotomy k es.length with h | rfl | h
  · simp [List.getElem?_append_left h, h.ne]
  · simp
  · have hbeyond : (es ++ [e])[k]? = none := List.getElem?_eq_none (by simpa using h)
    simp [hbeyond, List.getElem?_eq_none h.le, h.ne']

/-- EDGE_FALL counts its edge, sets Ready on the 42nd, and records its interval at the edge's own bit. -/
theorem readSoFar_of_exec_edgeFall {now : Counter} {es : List Stamp} {s t : State} (h : ReadSoFar es s)
    (hx : exec (.edgeFall now) s = .next t) : ReadSoFar (es ++ [elapsed now s.lastDevicePullUpTime]) t := by
  obtain ⟨-, -, rfl⟩ := (exec_edgeFall_next_iff now s t).1 hx
  obtain ⟨hposition, hready, hbits⟩ := h
  refine ⟨?_, ?_, fun hlen n => ?_⟩
  · rw [fallBody_bitIndex, beginEvent_bitIndex, hposition, List.length_append, BitVec.add_assoc, ← BitVec.ofNat_add]
    rfl
  · rw [flag_ready_fallBody_iff, beginEvent_flag, beginEvent_bitIndex, hready, hposition, position_eq_39_iff,
      List.length_append, List.length_singleton]
    omega
  · rw [List.length_append, List.length_singleton] at hlen
    rw [exists_mem_getElem?_concat, ← hbits (by omega), bufferBit_fallBody, Bool.or_eq_true, decide_eq_true_iff,
      beginEvent_bitIndex, hposition, eq_position_iff (by omega)]
    rfl

/-- A read, from its START on. -/
theorem readSoFar_of_runEvents {gf tf : Bool} {now : Counter} {cfg : CommConfig} {s s0 t : State}
    {is : List Instr} (hx : exec (.start gf tf now cfg) s = .next s0) (hw : withinRead is = true)
    (hr : runEvents is s0 = .next t) : ReadSoFar (fallIntervals is s.lastDevicePullUpTime) t := by
  have h := runEvents_induction_fallIntervals (P := ReadSoFar) (fun now es u v hu hv => ?_)
    (fun _ _ _ _ => readSoFar_of_exec_edgeFall) (fun now es u v hu hv => ?_) hw (readSoFar_of_exec_start hx) hr
  · have hrise : s0.lastDevicePullUpTime = s.lastDevicePullUpTime := by
      obtain ⟨-, -, rfl⟩ := (exec_start_next_iff gf tf now cfg s s0).1 hx
      rw [startBody_eq]
      rfl
    rwa [hrise] at h
  · obtain ⟨-, -, rfl⟩ := (exec_alarm_next_iff now u v).1 hv
    exact ⟨hu.position, by simpa [flag_alarmBody] using hu.ready, hu.bits⟩
  · obtain ⟨-, -, rfl⟩ := (exec_edgeRise_next_iff now u v).1 hv
    exact ⟨hu.position, hu.ready, hu.bits⟩

/-- Settles O38: two clauses of the invariant. -/
theorem positionCountsFallingEdges : Obligations.PositionCountsFallingEdges := by
  intro gf tf now cfg s s0 t is hx hw hr
  have h := readSoFar_of_runEvents hx hw hr
  exact ⟨h.position, h.ready⟩

/-- Settles O39: the invariant's clause for the bits, at the bit address of bit j of byte a. -/
theorem bufferPacksTheMeasuredBits : Obligations.BufferPacksTheMeasuredBits := by
  intro gf tf now cfg s s0 t is hx hw hr hfew a j
  have hbit := (readSoFar_of_runEvents hx hw hr).bits hfew ⟨8 * a.val + j.val, by omega⟩
  obtain ⟨ha, hj⟩ := (bitAddr_eq_iff a j ⟨8 * a.val + j.val, by omega⟩).1 rfl
  simpa only [bufferBit, ← ha, ← hj, symbol_bit1_iff, Option.mem_def] using hbit

/-! ## A 1 stays a 1 (R67) -/

/-- Settles O40: ALARM and EDGE_RISE leave the bytes, and EDGE_FALL ORs into one byte or leaves it. -/
theorem bufferIsMonotoneWithinARead : Obligations.BufferIsMonotoneWithinARead := by
  intro i s t hi hx a
  cases i with
  | start gf tf now cfg => nomatch hi
  | alarm now =>
    obtain ⟨-, -, rfl⟩ := (exec_alarm_next_iff now s t).1 hx
    simp
  | edgeFall now =>
    obtain ⟨-, -, rfl⟩ := (exec_edgeFall_next_iff now s t).1 hx
    rw [memRead_fallBody, beginEvent_memRead]
    split
    · ext j
      simp +contextual
    · exact BitVec.and_self
  | edgeRise now =>
    obtain ⟨-, -, rfl⟩ := (exec_edgeRise_next_iff now s t).1 hx
    simp

end Sys2Proof.Machine

/-! What stands around the operations: the refusals of disabled events (30_encoding.md R97), the status word's
layout (R99), the caller's read port (43_caller_interface.md R200) and power-on (10_state.md R48). -/

namespace Sys2Proof.Machine

/-! ## The refusals by name -/

/-- A disabled event is refused under the name of the condition that fails, whatever its time (R97). -/
theorem takeEvent_some (r : Refusal) (now : Counter) (s : State) (body : State → State) :
    takeEvent (some r) now s body = .refused r := rfl

/-- Without a subscription an edge is disabled (42_edge_decoder.md R160). -/
theorem edgeDisabled_of_not_edgeSub {s : State} (h : s.edgeSub = false) :
    edgeDisabled s = some .edgeNotSubscribed := by
  simp [edgeDisabled, h]

/-- Without a pending alarm ALARM is disabled (41_phase_transition.md R151). -/
theorem alarmDisabled_of_not_alarmPending {s : State} (h : s.alarmPending = false) (now : Counter) :
    alarmDisabled now s = some .alarmNotPending := by
  simp [alarmDisabled, h]

/-- Before its value a pending alarm is disabled (R151). -/
theorem alarmDisabled_of_lt_alarmVal {s : State} (h : s.alarmPending = true) {now : Counter} (hlt : now < s.alarmVal) :
    alarmDisabled now s = some .alarmBeforeValue := by
  simp [alarmDisabled, h, hlt]

/-- Settles O8: each enabling condition, where it fails. -/
theorem disabledEventsRefusedByName : Obligations.DisabledEventsRefusedByName := by
  refine ⟨fun gf tf now cfg s hp => exec_start_of_alarmPending gf tf now cfg hp, fun now s hp => ?_,
    fun now s hp hlt => ?_, fun now s hsub => ?_, fun now s hsub => ?_⟩
  · rw [exec, execAlarm, alarmDisabled_of_not_alarmPending hp, takeEvent_some]
  · rw [exec, execAlarm, alarmDisabled_of_lt_alarmVal hp hlt, takeEvent_some]
  · rw [exec, execEdgeFall, edgeDisabled_of_not_edgeSub hsub, takeEvent_some]
  · rw [exec, execEdgeRise, edgeDisabled_of_not_edgeSub hsub, takeEvent_some]

/-! ## The status word and the caller's reads -/

/-- Settles O32: each flag is read at its position. -/
theorem statusWordPositions : Obligations.StatusWordPositions :=
  fun _ => ⟨rfl, rfl, rfl, rfl, rfl, rfl, rfl, rfl, errMask_eq⟩

/-- Inside the buffer the caller reads the byte as it stands (R200). -/
theorem callerRead_bufAddr (a : BufAddr) (s : State) : callerRead a.val s = .ok (memRead a s) :=
  dif_pos a.isLt

/-- Outside the buffer the caller's read faults. -/
theorem callerRead_of_le {a : Nat} (h : 5 ≤ a) (s : State) : callerRead a s = .error (.noSuchAddress a) :=
  dif_neg (Nat.not_lt.2 h)

/-- Settles O33: the status word is read unchanged, and a byte by its address. -/
theorem callerReadsTheBuffer : Obligations.CallerReadsTheBuffer :=
  fun s => ⟨rfl, fun a => callerRead_bufAddr a s, fun _ h => callerRead_of_le h s⟩

/-! ## Power-on -/

/-- Settles O35: without a subscription, a pending alarm or an output, the buffer's form is all that is asked. -/
theorem powerOnMeetsTheInvariant : Obligations.PowerOnMeetsTheInvariant where
  bufferForm := reset_wf
  bufferWritten := nofun
  validReady := nofun
  unreadyPosition := nofun
  overflowReady := nofun
  alarmHost := nofun
  alarmStamp := nofun
  hostLine := nofun
  deviceLine := nofun
  doneReady := nofun
  errMasked := nofun

end Sys2Proof.Machine
